-- ==== Sys2Proof/Word.lean ====
section
/-! DEFINITION. The widths of the PIC16F87X (spec/00_scope.md R3, R4): bytes, instruction words, program
addresses, data addresses. All quantities are unsigned; bit 0 is the least significant (R4). -/

namespace Sys2Proof

/-- A byte: W and every file register (R3, `REG_BITS` = 8). -/
abbrev Byte := BitVec 8

/-- An instruction word (R70: "Each PIC16F87X instruction is a 14-bit word"). -/
abbrev InstrWord := BitVec 14

/-- A program address, and the program counter (R11: 13 bits, a word address). -/
abbrev CodeAddr := BitVec 13

/-- The file register designator `f` of an instruction (R3, `F_BITS` = 7). -/
abbrev FileNo := BitVec 7

/-- A data address (R42, R43: 9 bits, `RP1:RP0:f` or `IRP:FSR`). -/
abbrev DataAddr := BitVec 9

end Sys2Proof
end

