-- ==== Sys2Proof/Syntax.lean ====
section
/-! DEFINITION. The 35 instructions of Table 13-2 (spec/30_encoding.md R75), one constructor per row of
spec/opcode_table.json, with the operands of R72. The ranges of `f`, `d` and `k` are those of their fields' types;
the range of the bit number `b` (0 to 7, R130) is checked in WellFormed. -/

namespace Sys2Proof

/-- The destination designator `d` (R100): 0 is W, 1 is the file register. -/
inductive Dest where
  | w
  | f
  deriving DecidableEq, Repr

/-- An instruction. Constructors in the order of Table 13-2. -/
inductive Instr where
  -- byte-oriented file register operations (R102 to R119)
  | addwf (f : FileNo) (d : Dest)
  | andwf (f : FileNo) (d : Dest)
  | clrf (f : FileNo)
  | clrw
  | comf (f : FileNo) (d : Dest)
  | decf (f : FileNo) (d : Dest)
  | decfsz (f : FileNo) (d : Dest)
  | incf (f : FileNo) (d : Dest)
  | incfsz (f : FileNo) (d : Dest)
  | iorwf (f : FileNo) (d : Dest)
  | movf (f : FileNo) (d : Dest)
  | movwf (f : FileNo)
  | nop
  | rlf (f : FileNo) (d : Dest)
  | rrf (f : FileNo) (d : Dest)
  | subwf (f : FileNo) (d : Dest)
  | swapf (f : FileNo) (d : Dest)
  | xorwf (f : FileNo) (d : Dest)
  -- bit-oriented file register operations (R131 to R134)
  | bcf (f : FileNo) (b : Nat)
  | bsf (f : FileNo) (b : Nat)
  | btfsc (f : FileNo) (b : Nat)
  | btfss (f : FileNo) (b : Nat)
  -- literal and control operations (R140 to R152)
  | addlw (k : Byte)
  | andlw (k : Byte)
  | call (k : BitVec 11)
  | clrwdt
  | goto (k : BitVec 11)
  | iorlw (k : Byte)
  | movlw (k : Byte)
  | retfie
  | retlw (k : Byte)
  | retn
  | sleep
  | sublw (k : Byte)
  | xorlw (k : Byte)
  deriving DecidableEq, Repr

end Sys2Proof
end

