-- ==== Sys2Proof/WellFormed.lean ====
section
/-! DEFINITION. Which instruction terms are instructions of the hardware: the operand ranges of
spec/30_encoding.md R72 and spec/41_bit_oriented.md R130 that the operands' types do not carry already. -/

namespace Sys2Proof

/-- The range of a bit number: "0 <= b <= 7" (R130; for BTFSS too, R73 and conflict C3). -/
def bitNoOk (b : Nat) : Bool := decide (b ≤ 7)

/-- The operand ranges of R72. `f` (7 bits), `d` and `k` (8 or 11 bits) cannot be out of range. -/
def Instr.wellFormed : Instr → Bool
  | .bcf _ b => bitNoOk b
  | .bsf _ b => bitNoOk b
  | .btfsc _ b => bitNoOk b
  | .btfss _ b => bitNoOk b
  | .addwf _ _ | .andwf _ _ | .clrf _ | .clrw | .comf _ _ | .decf _ _ | .decfsz _ _ | .incf _ _ | .incfsz _ _
  | .iorwf _ _ | .movf _ _ | .movwf _ | .nop | .rlf _ _ | .rrf _ _ | .subwf _ _ | .swapf _ _ | .xorwf _ _
  | .addlw _ | .andlw _ | .call _ | .clrwdt | .goto _ | .iorlw _ | .movlw _ | .retfie | .retlw _ | .retn | .sleep
  | .sublw _ | .xorlw _ => true

end Sys2Proof
end

