-- ==== Sys2Proof/Decode.lean ====
section
/-! DEFINITION. The decoder (spec/30_encoding.md R72 to R76, R78, R79), total on 14-bit words, and after it the encoder
(R77), written from the same bit patterns of R75. -/

namespace Sys2Proof

/-- Why a word is no instruction. -/
inductive DecodeReject where
  /-- One of the words that no row of Table 13-2 matches (R78). -/
  | unlistedWord
  /-- One of the four words that general knowledge gives to OPTION and TRIS (R79). -/
  | optionTris
  deriving DecidableEq, Repr

/-- What a word decodes to. -/
abbrev Decoded := Except DecodeReject Instr

/-- `d` from its bit (R72): 0 is W, 1 is the file register. -/
def Dest.ofBit (bit : Bool) : Dest := if bit then .f else .w

/-- The field `f` of a word (R72). -/
def fieldF (w : InstrWord) : FileNo := w.extractLsb' 0 7

/-- The field `d` of a word (R72). -/
def fieldD (w : InstrWord) : Dest := Dest.ofBit (w.getLsbD 7)

/-- The field `b` of a word (R72). -/
def fieldB (w : InstrWord) : Nat := (w.extractLsb' 7 3).toNat

/-- The 8-bit field `k` of a word (R72). -/
def fieldK8 (w : InstrWord) : Byte := w.extractLsb' 0 8

/-- The 11-bit field `k` of a word (R72). -/
def fieldK11 (w : InstrWord) : BitVec 11 := w.extractLsb' 0 11

/-- The words `00 0000 0xxx xxxx` (R76, and R79 for the four OPTION and TRIS words); `low` is the word's low 7 bits. -/
def decodeNoOperand (low : BitVec 7) : Decoded :=
  if low.extractLsb' 0 5 = 0b00000#5 then .ok .nop
  else if low = 0b0001000#7 then .ok .retn
  else if low = 0b0001001#7 then .ok .retfie
  else if low = 0b1100011#7 then .ok .sleep
  else if low = 0b1100100#7 then .ok .clrwdt
  else if low = 0x62#7 ∨ low = 0x65#7 ∨ low = 0x66#7 ∨ low = 0x67#7 then .error .optionTris
  else .error .unlistedWord

/-- The words `00 xxxx xxxx xxxx` (R76), by the 4-bit code in bits 11:8. -/
def decodeByteOriented (w : InstrWord) : Decoded :=
  let f := fieldF w
  let d := fieldD w
  match (w.extractLsb' 8 4).toNat with
  | 0x0 => if w.getLsbD 7 then .ok (.movwf f) else decodeNoOperand (fieldF w)
  | 0x1 => if w.getLsbD 7 then .ok (.clrf f) else .ok .clrw
  | 0x2 => .ok (.subwf f d)
  | 0x3 => .ok (.decf f d)
  | 0x4 => .ok (.iorwf f d)
  | 0x5 => .ok (.andwf f d)
  | 0x6 => .ok (.xorwf f d)
  | 0x7 => .ok (.addwf f d)
  | 0x8 => .ok (.movf f d)
  | 0x9 => .ok (.comf f d)
  | 0xA => .ok (.incf f d)
  | 0xB => .ok (.decfsz f d)
  | 0xC => .ok (.rrf f d)
  | 0xD => .ok (.rlf f d)
  | 0xE => .ok (.swapf f d)
  | _ => .ok (.incfsz f d)  -- 0xF

/-- The words `01 xxxx xxxx xxxx` (R76), by bits 11:10. -/
def decodeBitOriented (w : InstrWord) : Decoded :=
  let f := fieldF w
  let b := fieldB w
  match (w.extractLsb' 10 2).toNat with
  | 0 => .ok (.bcf f b)
  | 1 => .ok (.bsf f b)
  | 2 => .ok (.btfsc f b)
  | _ => .ok (.btfss f b)  -- 3

/-- The words `10 xxxx xxxx xxxx` (R76), by bit 11. -/
def decodeJump (w : InstrWord) : Decoded :=
  if w.getLsbD 11 then .ok (.goto (fieldK11 w)) else .ok (.call (fieldK11 w))

/-- The words `11 xxxx xxxx xxxx` (R76), by bits 11:8; `11 1011 xxxx xxxx` is unlisted (R78). -/
def decodeLiteral (w : InstrWord) : Decoded :=
  let k := fieldK8 w
  match (w.extractLsb' 8 4).toNat with
  | 0x0 | 0x1 | 0x2 | 0x3 => .ok (.movlw k)
  | 0x4 | 0x5 | 0x6 | 0x7 => .ok (.retlw k)
  | 0x8 => .ok (.iorlw k)
  | 0x9 => .ok (.andlw k)
  | 0xA => .ok (.xorlw k)
  | 0xB => .error .unlistedWord
  | 0xC | 0xD => .ok (.sublw k)
  | _ => .ok (.addlw k)  -- 0xE, 0xF

/-- The decoder (R76): the instruction a 14-bit word is, or why it is none. Don't-care bits are ignored (R74). -/
def decode (w : InstrWord) : Decoded :=
  match (w.extractLsb' 12 2).toNat with
  | 0 => decodeByteOriented w
  | 1 => decodeBitOriented w
  | 2 => decodeJump w
  | _ => decodeLiteral w  -- 3

/-- The instruction the decoder reads from a table row's bits (`nbits` of them, numbered from the word's bit 0). A
number that does not fit the 14-bit word is no instruction (log 20). -/
def decodeTableWord (nbits w : Nat) : Option Instr :=
  let v := w % 2 ^ nbits
  if v < 2 ^ 14 then
    match decode (BitVec.ofNat 14 v) with
    | .ok i => some i
    | .error _ => none
  else none

/-- `d` as its bit (R72). -/
def Dest.toBit : Dest → BitVec 1
  | .w => 0b0#1
  | .f => 0b1#1

/-- The bit number `b` as its field (R72). -/
def bitField (b : Nat) : BitVec 3 := BitVec.ofNat 3 b

/-- The encoder (R77): each row's pattern of R75 with every don't-care bit 0. -/
def encode : Instr → InstrWord
  | .addwf f d => 0b000111#6 ++ d.toBit ++ f
  | .andwf f d => 0b000101#6 ++ d.toBit ++ f
  | .clrf f => 0b0000011#7 ++ f
  | .clrw => 0b00000100000000#14
  | .comf f d => 0b001001#6 ++ d.toBit ++ f
  | .decf f d => 0b000011#6 ++ d.toBit ++ f
  | .decfsz f d => 0b001011#6 ++ d.toBit ++ f
  | .incf f d => 0b001010#6 ++ d.toBit ++ f
  | .incfsz f d => 0b001111#6 ++ d.toBit ++ f
  | .iorwf f d => 0b000100#6 ++ d.toBit ++ f
  | .movf f d => 0b001000#6 ++ d.toBit ++ f
  | .movwf f => 0b0000001#7 ++ f
  | .nop => 0b00000000000000#14
  | .rlf f d => 0b001101#6 ++ d.toBit ++ f
  | .rrf f d => 0b001100#6 ++ d.toBit ++ f
  | .subwf f d => 0b000010#6 ++ d.toBit ++ f
  | .swapf f d => 0b001110#6 ++ d.toBit ++ f
  | .xorwf f d => 0b000110#6 ++ d.toBit ++ f
  | .bcf f b => 0b0100#4 ++ bitField b ++ f
  | .bsf f b => 0b0101#4 ++ bitField b ++ f
  | .btfsc f b => 0b0110#4 ++ bitField b ++ f
  | .btfss f b => 0b0111#4 ++ bitField b ++ f
  | .addlw k => 0b111110#6 ++ k
  | .andlw k => 0b111001#6 ++ k
  | .call k => 0b100#3 ++ k
  | .clrwdt => 0b00000001100100#14
  | .goto k => 0b101#3 ++ k
  | .iorlw k => 0b111000#6 ++ k
  | .movlw k => 0b110000#6 ++ k
  | .retfie => 0b00000000001001#14
  | .retlw k => 0b110100#6 ++ k
  | .retn => 0b00000000001000#14
  | .sleep => 0b00000001100011#14
  | .sublw k => 0b111100#6 ++ k
  | .xorlw k => 0b111010#6 ++ k

/-- The `match` column of the opcode map (R75): the row's word with its operand and don't-care bits 0. -/
def rowMatch : Instr → InstrWord
  | .addwf _ _ => 0x0700#14
  | .andwf _ _ => 0x0500#14
  | .clrf _ => 0x0180#14
  | .clrw => 0x0100#14
  | .comf _ _ => 0x0900#14
  | .decf _ _ => 0x0300#14
  | .decfsz _ _ => 0x0B00#14
  | .incf _ _ => 0x0A00#14
  | .incfsz _ _ => 0x0F00#14
  | .iorwf _ _ => 0x0400#14
  | .movf _ _ => 0x0800#14
  | .movwf _ => 0x0080#14
  | .nop => 0x0000#14
  | .rlf _ _ => 0x0D00#14
  | .rrf _ _ => 0x0C00#14
  | .subwf _ _ => 0x0200#14
  | .swapf _ _ => 0x0E00#14
  | .xorwf _ _ => 0x0600#14
  | .bcf _ _ => 0x1000#14
  | .bsf _ _ => 0x1400#14
  | .btfsc _ _ => 0x1800#14
  | .btfss _ _ => 0x1C00#14
  | .addlw _ => 0x3E00#14
  | .andlw _ => 0x3900#14
  | .call _ => 0x2000#14
  | .clrwdt => 0x0064#14
  | .goto _ => 0x2800#14
  | .iorlw _ => 0x3800#14
  | .movlw _ => 0x3000#14
  | .retfie => 0x0009#14
  | .retlw _ => 0x3400#14
  | .retn => 0x0008#14
  | .sleep => 0x0063#14
  | .sublw _ => 0x3C00#14
  | .xorlw _ => 0x3A00#14

/-- The `mask` column of the opcode map (R75): 1 on the row's opcode bits, 0 on operand and don't-care bits. -/
def rowMask : Instr → InstrWord
  | .addwf _ _ | .andwf _ _ | .comf _ _ | .decf _ _ | .decfsz _ _ | .incf _ _ | .incfsz _ _ | .iorwf _ _
  | .movf _ _ | .rlf _ _ | .rrf _ _ | .subwf _ _ | .swapf _ _ | .xorwf _ _ => 0x3F00#14
  | .clrf _ | .clrw | .movwf _ => 0x3F80#14
  | .nop => 0x3F9F#14
  | .bcf _ _ | .bsf _ _ | .btfsc _ _ | .btfss _ _ => 0x3C00#14
  | .addlw _ | .sublw _ => 0x3E00#14
  | .andlw _ | .iorlw _ | .xorlw _ => 0x3F00#14
  | .call _ | .goto _ => 0x3800#14
  | .movlw _ | .retlw _ => 0x3C00#14
  | .clrwdt | .retfie | .retn | .sleep => 0x3FFF#14

end Sys2Proof
end

