-- ==== Sys2Proof/Config.lean ====
section
/-! DEFINITION. What an implementation fixes (spec/00_scope.md R3), as a record of plain data that the state carries
and no step changes, and the FREE VALUES: constants with no body, of which nothing can be proved. -/

namespace Sys2Proof

/-- `PROG_WORDS` (R3, D1): how many program words exist. -/
inductive ProgWords where
  /-- 8192 words: PIC16F876, PIC16F877 (the default). -/
  | w8192
  /-- 4096 words: PIC16F873, PIC16F874. -/
  | w4096
  deriving DecidableEq, Repr

/-- The number of words a `PROG_WORDS` setting stands for. -/
def ProgWords.count : ProgWords → Nat
  | .w8192 => 8192
  | .w4096 => 4096

/-- `STACK_WRAP` (R3, R15, D3): what a push onto a full stack or a pop of an empty one does. -/
inductive StackWrap where
  /-- The default: a model fault, the state unchanged. -/
  | fault
  /-- The chip's circular buffer, as R15 describes it: the ninth push overwrites the oldest entry, a pop of an empty
  stack returns a stale entry. -/
  | circular
  deriving DecidableEq, Repr

/-- `GPR_MAP` (R3, R48, D6): which data addresses are general purpose RAM. -/
inductive RamMap where
  /-- PIC16F876 and PIC16F877, 368 bytes (the default). -/
  | pic876
  /-- PIC16F873 and PIC16F874, 192 bytes. -/
  | pic873
  deriving DecidableEq, Repr

/-- The parameters of R3 that have more than one admitted value. DESIGN CHOICE, log 6: they stand in the state, so
that a statement about every state holds for every setting. -/
structure Config where
  progWords : ProgWords
  stackWrap : StackWrap
  ramMap : RamMap
  /-- `WDT_ENABLED` (R172, D15). -/
  wdtEnabled : Bool
  deriving DecidableEq, Repr

/-- Free byte number `n` of the run: what the `n`-th read of a device-class address returns (R49, `draw(8)`).
Log 5. No body: a claim is true whatever it is. -/
opaque Config.freeByte : Nat → Byte

/-- Free program address number `n` of the run: a stack entry that a reset leaves unspecified (R31, U19). Log 8. -/
opaque Config.freeCodeAddr : Nat → CodeAddr

end Sys2Proof
end

