-- ==== Sys2Proof/Machine/Layout.lean ====
section
/-! DEFINITION. The fixed numbers of the machine: file addresses of the core registers (spec/10_state.md R14, R19, R21
to R23, R26), bit positions (R19, R21, R26), vectors (spec/20_memory.md R54), the stack's depth (R15), the values of
the reset table (R31) and the values the model names where that table says "unknown". -/

namespace Sys2Proof.Machine

/-- INDF, the indirect file number (R23), in every bank. -/
def indfNo : FileNo := 0x00#7
/-- TMR0 in banks 0 and 2, OPTION_REG in banks 1 and 3 (R26). -/
def timerNo : FileNo := 0x01#7
/-- PCL (R22), in every bank. -/
def pclNo : FileNo := 0x02#7
/-- STATUS (R19), in every bank. -/
def statusNo : FileNo := 0x03#7
/-- FSR (R23), in every bank. -/
def fsrNo : FileNo := 0x04#7
/-- PCLATH (R14), in every bank. -/
def pclathNo : FileNo := 0x0A#7
/-- INTCON (R21), in every bank. -/
def intconNo : FileNo := 0x0B#7

/-- STATUS bit numbers (R19). -/
def bitC : Nat := 0
def bitDC : Nat := 1
def bitZ : Nat := 2
def bitPD : Nat := 3
def bitTO : Nat := 4
def bitRP0 : Nat := 5
def bitRP1 : Nat := 6
def bitIRP : Nat := 7

/-- INTCON bit numbers (R21, R162). -/
def bitRBIF : Nat := 0
def bitINTF : Nat := 1
def bitT0IF : Nat := 2
def bitRBIE : Nat := 3
def bitINTE : Nat := 4
def bitT0IE : Nat := 5
def bitPEIE : Nat := 6
def bitGIE : Nat := 7

/-- OPTION_REG bit PSA: 0 when the prescaler is assigned to Timer0 (R26). -/
def bitPSA : Nat := 3

/-- `RESET_VECTOR` (R3, R54, R190). -/
def resetVector : CodeAddr := 0x0000#13
/-- `IRQ_VECTOR` (R3, R54, R167). -/
def irqVector : CodeAddr := 0x0004#13
/-- `STACK_DEPTH` (R3, R15). -/
def stackDepth : Nat := 8

/-- STATUS at power-on, `0001 1xxx` (R31). Z, DC, C are unknown there: DESIGN CHOICE 0, log 2. -/
def statusPowerOn : Byte := 0x18#8
/-- INTCON at power-on, `0000 000x` (R31). RBIF is unknown there: DESIGN CHOICE 0, log 2. -/
def intconPowerOn : Byte := 0x00#8
/-- OPTION_REG after any reset (R31). -/
def optionRegReset : Byte := 0xFF#8
/-- PCLATH after any reset (R31). -/
def pclathReset : BitVec 5 := 0#5
/-- W, FSR and TMR0 at power-on, which R31 leaves unknown: DESIGN CHOICE 0x00, log 1. -/
def unknownAtPowerOn : Byte := 0x00#8
/-- The stack's entries at power-on, which R31 leaves unspecified: DESIGN CHOICE 0x0000, log 4. -/
def stackEntryPowerOn : CodeAddr := 0x0000#13
/-- What a RAM cell that nothing has written reads as, which R31 leaves unknown: DESIGN CHOICE 0x00, log 3. -/
def ramUnlisted : Byte := 0x00#8

/-- The parameters at reset: the default of each line of R3. -/
def defaultConfig : Config :=
  { progWords := .w8192, stackWrap := .fault, ramMap := .pic876, wdtEnabled := false }

end Sys2Proof.Machine
end

