-- ==== Sys2Proof/Machine/State.lean ====
section
/-! DEFINITION. The machine's state as plain data, holding all the state spec/10_state.md gives it, the reasons a step
can stop (spec/00_scope.md R6, spec/60_exceptions.md R161), and the state right after a power-on reset (R31, R190). -/

namespace Sys2Proof.Machine

/-- The mode (R25): in `sleeping` no instruction is fetched or executed. -/
inductive Mode where
  | running
  | sleeping
  deriving DecidableEq, Repr

/-- The flag bits of INTCON that the environment sets (R162). -/
inductive IrqFlag where
  | t0if
  | intf
  | rbif
  deriving DecidableEq, Repr

/-- A move of the environment (R56, D19). -/
inductive Move where
  /-- An event sets its flag in INTCON (R162). -/
  | raise (flag : IrqFlag)
  /-- The machine takes a pending interrupt now (R166); `periph` is the peripherals' request (R163). -/
  | interrupt (periph : Bool)
  /-- An interrupt request wakes the sleeping machine (R174). -/
  | wake (periph : Bool)
  /-- The watchdog times out (R172, R174). -/
  | wdtTimeout
  /-- A reset on the MCLR pin (R190, R174). -/
  | mclr
  /-- A brown-out reset (R190). -/
  | brownOut
  /-- A power-on reset (R190). -/
  | powerOn
  deriving DecidableEq, Repr

/-- Whose turn a step is (DESIGN CHOICE, log 9). -/
inductive Turn where
  | core
  | env (move : Move)
  deriving DecidableEq, Repr

/-- An output event: a write to a device-class address (R47). -/
structure OutputEvent where
  addr : DataAddr
  value : Byte
  deriving DecidableEq, Repr

/-- The machine's state. The last four fields are the parameters of R3 and the model's own bookkeeping. -/
structure State where
  /-- The working register (R10). -/
  w : Byte
  /-- The address of the instruction to execute (R11, R12). -/
  pc : CodeAddr
  /-- The return addresses on the stack, TOS first; its length is the depth (R15). -/
  stack : List CodeAddr
  /-- The entries above the depth, from the one a pop of an empty circular stack reads first (R15, U19; log 7). -/
  stale : List CodeAddr
  /-- STATUS: IRP RP1 RP0 TO PD Z DC C, bit 7 first (R19). -/
  status : Byte
  /-- PCLATH (R14). -/
  pclath : BitVec 5
  /-- FSR (R23). -/
  fsr : Byte
  /-- INTCON: GIE PEIE T0IE INTE RBIE T0IF INTF RBIF, bit 7 first (R21, R162). -/
  intcon : Byte
  /-- OPTION_REG, of which PSA is read by R26 (log 16). -/
  optionReg : Byte
  /-- TMR0 as a file write last set it (R26; log 17). -/
  tmr0 : Byte
  /-- The general purpose RAM, by physical cell (R28, R48). -/
  ram : List Host.Cell
  /-- Program memory, by word address (R40, R41; log 19). -/
  prog : List (Nat × InstrWord)
  /-- The output events, newest first (R47; log 18). -/
  outputs : List OutputEvent
  /-- The watchdog timer's count (R24; log 15). -/
  wdt : Nat
  /-- The prescaler's count (R24, R26; log 15). -/
  prescaler : Nat
  /-- An instruction has executed since the watchdog was last cleared (R172; log 14). -/
  wdtArmed : Bool
  /-- A wake-up by interrupt owes one instruction before the vector (R174; log 11). -/
  holdoff : Bool
  /-- Running or sleeping (R25). -/
  mode : Mode
  /-- The parameters of R3 (log 6); no step changes them. -/
  cfg : Config
  /-- Who moves in the coming steps; after the last, the core always (log 9). -/
  turns : List Turn
  /-- How many free values have been taken (log 5). -/
  draws : Nat
  /-- The instruction cycles executed (R201; log 29). -/
  cycles : Nat
  deriving DecidableEq, Repr

/-- Why the machine stops with a fault (R6, R161). No fault changes any state. -/
inductive Fault where
  /-- A push onto a full stack with STACK_WRAP = fault: CALL and interrupt entry (R15). Safe: the chip wraps silently,
  and the other setting of STACK_WRAP models that. -/
  | stackOverflow (pc : CodeAddr)
  /-- A pop of an empty stack with STACK_WRAP = fault: RETURN, RETLW, RETFIE (R15). Safe: as above. -/
  | stackUnderflow (pc : CodeAddr)
  /-- A fetch from an address with no program word, or at or above PROG_WORDS: `step` (R13, R41). Safe. -/
  | fetchOutsideProgram (pc : CodeAddr)
  deriving DecidableEq, Repr

/-- Why the model gives what it fetched no meaning (R6, R161). -/
inductive Refusal where
  /-- No meaning yet for the instruction of this mnemonic: raised only by an arm of `exec`. Safe. -/
  | notModelled (mnemonic : String)
  /-- The word matches no row of Table 13-2: `step` (R78). Safe. -/
  | unlistedWord (pc : CodeAddr) (word : InstrWord)
  /-- The word is one that general knowledge gives to OPTION or TRIS: `step` (R79). Safe. -/
  | optionTris (pc : CodeAddr) (word : InstrWord)
  /-- INCFSZ or DECFSZ with d = 1 whose operand resolves to PCL: their meanings (R22, R108, R110). Safe. -/
  | skipWritesPcl (pc : CodeAddr)
  deriving DecidableEq, Repr

/-- What a step or a meaning answers. -/
abbrev Outcome := Host.Outcome State Fault Refusal

/-- The machine right after a power-on reset (the power-on column of R31, and R190); no program is loaded (log 19) and
no move of the environment is scheduled (log 9). -/
def State.reset : State :=
  { w := unknownAtPowerOn
    pc := resetVector
    stack := []
    stale := List.replicate stackDepth stackEntryPowerOn
    status := statusPowerOn
    pclath := pclathReset
    fsr := unknownAtPowerOn
    intcon := intconPowerOn
    optionReg := optionRegReset
    tmr0 := unknownAtPowerOn
    ram := []
    prog := []
    outputs := []
    wdt := 0
    prescaler := 0
    wdtArmed := false
    holdoff := false
    mode := .running
    cfg := defaultConfig
    turns := []
    draws := 0
    cycles := 0 }

end Sys2Proof.Machine
end

