-- ==== Sys2Proof/Machine/Assoc.lean ====
section
/-! DEFINITION. Sparse storage by address: a list of (address, value) pairs with strictly rising addresses, and the RAM
and program memory built on it (spec/20_memory.md R41, R47, R48). -/

namespace Sys2Proof.Machine

/-- The value listed at an address. -/
def cellsLookup {α : Type} (m : List (Nat × α)) (a : Nat) : Option α :=
  match m with
  | [] => none
  | (b, x) :: rest => if a = b then some x else cellsLookup rest a

/-- `m` with `v` listed at `a`, in address order. -/
def cellsInsert {α : Type} (m : List (Nat × α)) (a : Nat) (v : α) : List (Nat × α) :=
  match m with
  | [] => [(a, v)]
  | (b, x) :: rest =>
    if a < b then (a, v) :: (b, x) :: rest
    else if a = b then (a, v) :: rest
    else (b, x) :: cellsInsert rest a v

/-- `m` with nothing listed at `a`. -/
def cellsErase {α : Type} (m : List (Nat × α)) (a : Nat) : List (Nat × α) :=
  match m with
  | [] => []
  | (b, x) :: rest => if a = b then cellsErase rest a else (b, x) :: cellsErase rest a

/-- The addresses rise strictly. -/
abbrev cellsSorted {α : Type} (m : List (Nat × α)) : Prop := m.Pairwise (fun x y => x.1 < y.1)

/-- What a RAM cell holds: "the last value written" (R28), or `ramUnlisted` (log 3). -/
def ramRead (m : List Host.Cell) (c : Nat) : Byte := (cellsLookup m c).getD ramUnlisted

/-- A RAM cell takes a value (R47). Writing what an unlisted cell reads as removes the entry, so that equal memories
are equal lists. -/
def ramWrite (m : List Host.Cell) (c : Nat) (v : Byte) : List Host.Cell :=
  if v = ramUnlisted then cellsErase m c else cellsInsert m c v

/-- The canonical form of a RAM: addresses strictly rising, no entry equal to what an unlisted cell reads as. -/
abbrev Memory.wf (m : List Host.Cell) : Prop := cellsSorted m ∧ ∀ x ∈ m, x.2 ≠ ramUnlisted

/-- The canonical form of a program: word addresses strictly rising, all below 2^13 (R54). -/
abbrev progWf (p : List (Nat × InstrWord)) : Prop := cellsSorted p ∧ ∀ x ∈ p, x.1 < 2 ^ 13

/-- `ProgRead(a)` (R41): the word at a program address, none where the program gives no word. -/
def progRead (p : List (Nat × InstrWord)) (a : CodeAddr) : Option InstrWord := cellsLookup p a.toNat

/-- The program with one word placed: a load from outside the machine, no step does it (R41, R60). -/
def progLoad (p : List (Nat × InstrWord)) (a : CodeAddr) (word : InstrWord) : List (Nat × InstrWord) :=
  cellsInsert p a.toNat word

end Sys2Proof.Machine
end

