-- ==== Sys2Proof/Machine/Flags.lean ====
section
/-! DEFINITION. The bits of STATUS and INTCON, the flag computations (spec/10_state.md R16 to R18, and RLF, RRF of
spec/40_byte_oriented.md R115, R116), and how an instruction and a file write change STATUS (R20). -/

namespace Sys2Proof.Machine

/-! ### Single bits of a byte -/

/-- A byte with bit `b` cleared (R131). -/
def clearBit (v : Byte) (b : Nat) : Byte := v &&& ~~~(1#8 <<< b)

/-- A byte with bit `b` set (R132). -/
def setBit (v : Byte) (b : Nat) : Byte := v ||| (1#8 <<< b)

/-! ### STATUS and INTCON by name -/

/-- The Carry flag (R16, R19). -/
def State.flagC (s : State) : Bool := s.status.getLsbD bitC
/-- The Digit Carry flag (R16, R19). -/
def State.flagDC (s : State) : Bool := s.status.getLsbD bitDC
/-- The Zero flag (R16, R19). -/
def State.flagZ (s : State) : Bool := s.status.getLsbD bitZ
/-- The Power-down bit (R16, R19). -/
def State.flagPD (s : State) : Bool := s.status.getLsbD bitPD
/-- The Time-out bit (R16, R19). -/
def State.flagTO (s : State) : Bool := s.status.getLsbD bitTO
/-- RP1:RP0, the bank of direct addressing (R19, R42). -/
def State.bank (s : State) : BitVec 2 := s.status.extractLsb' bitRP0 2
/-- IRP, the bank pair of indirect addressing (R19, R43). -/
def State.irp (s : State) : BitVec 1 := s.status.extractLsb' bitIRP 1
/-- The global interrupt enable (R21). -/
def State.gie (s : State) : Bool := s.intcon.getLsbD bitGIE
/-- Whether the prescaler is assigned to the Timer0 module: PSA = 0 (R26). -/
def State.prescalerOnTimer0 (s : State) : Bool := !s.optionReg.getLsbD bitPSA

/-- STATUS from its parts (R19). -/
def packStatus (bankBits : BitVec 3) (timeOut powerDown z dc c : Bool) : Byte :=
  bankBits ++ BitVec.ofBool timeOut ++ BitVec.ofBool powerDown ++ BitVec.ofBool z ++ BitVec.ofBool dc ++ BitVec.ofBool c

/-- TO and PD take new values (CLRWDT, SLEEP, resets and wake-ups); the other six bits stay. -/
def State.setTimeoutBits (s : State) (timeOut powerDown : Bool) : State :=
  { s with status := packStatus (s.status.extractLsb' 5 3) timeOut powerDown s.flagZ s.flagDC s.flagC }

/-- GIE is set or cleared; the other bits of INTCON stay (R147, R166). -/
def State.setGie (s : State) (on : Bool) : State :=
  { s with intcon := if on then setBit s.intcon bitGIE else clearBit s.intcon bitGIE }

/-! ### Arithmetic and logic results -/

/-- What an operation computes: the 8-bit result, and the C and DC it offers (used only where the instruction affects
them). Z is "1 if the 8-bit result of the instruction is 0x00" (R16), computed from `val`. -/
structure AluResult where
  val : Byte
  c : Bool
  dc : Bool
  deriving DecidableEq, Repr

/-- The Z of a result (R16). -/
def AluResult.z (r : AluResult) : Bool := r.val == 0x00#8

/-- A result whose instruction affects neither C nor DC. -/
def plain (v : Byte) : AluResult := { val := v, c := false, dc := false }

/-- `Add8(a, b)` (R17). -/
def add8 (a b : Byte) : AluResult :=
  let sum := a.toNat + b.toNat
  { val := BitVec.ofNat 8 sum
    c := sum.testBit 8
    dc := ((a.extractLsb' 0 4).toNat + (b.extractLsb' 0 4).toNat).testBit 4 }

/-- `Sub8(a, b)`, `a - b` by the 2's complement method (R18): C and DC are the carries of a + ~b + 1. -/
def sub8 (a b : Byte) : AluResult :=
  let nb := ~~~b
  let sum := a.toNat + nb.toNat + 1
  { val := BitVec.ofNat 8 sum
    c := sum.testBit 8
    dc := ((a.extractLsb' 0 4).toNat + (nb.extractLsb' 0 4).toNat + 1).testBit 4 }

/-- RLF's result (R115): the old C enters at bit 0, the old bit 7 leaves into C. -/
def rotateLeft (a : Byte) (carry : Bool) : AluResult :=
  { val := a.extractLsb' 0 7 ++ BitVec.ofBool carry, c := a.getLsbD 7, dc := false }

/-- RRF's result (R116): the old C enters at bit 7, the old bit 0 leaves into C. -/
def rotateRight (a : Byte) (carry : Bool) : AluResult :=
  { val := BitVec.ofBool carry ++ a.extractLsb' 1 7, c := a.getLsbD 0, dc := false }

/-- SWAPF's value (R118): the nibbles exchanged. -/
def swapNibbles (a : Byte) : Byte := a.extractLsb' 0 4 ++ a.extractLsb' 4 4

/-! ### "Status Affected" -/

/-- The flags of {C, DC, Z} in an instruction's "Status Affected" column (R16, R75). -/
structure FlagSet where
  c : Bool
  dc : Bool
  z : Bool
  deriving DecidableEq, Repr

/-- Status Affected: none. -/
def FlagSet.none : FlagSet := { c := false, dc := false, z := false }
/-- Status Affected: C, DC, Z. -/
def FlagSet.cdcz : FlagSet := { c := true, dc := true, z := true }
/-- Status Affected: Z. -/
def FlagSet.onlyZ : FlagSet := { c := false, dc := false, z := true }
/-- Status Affected: C. -/
def FlagSet.onlyC : FlagSet := { c := true, dc := false, z := false }

/-- STATUS after a file write of `v` to it by an instruction that affects `aff` (R20). TO and PD are not writable; Z,
DC, C take `v`'s bits only when `aff` is empty (log 22 for the flags outside a non-empty `aff`). -/
def statusWritten (v : Byte) (aff : FlagSet) (s : State) : Byte :=
  if aff = FlagSet.none then
    packStatus (v.extractLsb' 5 3) s.flagTO s.flagPD (v.getLsbD bitZ) (v.getLsbD bitDC) (v.getLsbD bitC)
  else packStatus (v.extractLsb' 5 3) s.flagTO s.flagPD s.flagZ s.flagDC s.flagC

/-- A file write to STATUS (R20). -/
def writeStatus (v : Byte) (aff : FlagSet) (s : State) : State := { s with status := statusWritten v aff s }

/-- STATUS after an instruction writes the flags it affects from its result; "A flag an instruction does not list is
left unchanged by it" (R16). -/
def statusAffected (aff : FlagSet) (r : AluResult) (s : State) : Byte :=
  packStatus (s.status.extractLsb' 5 3) s.flagTO s.flagPD
    (if aff.z then r.z else s.flagZ) (if aff.dc then r.dc else s.flagDC) (if aff.c then r.c else s.flagC)

/-- An instruction writes its flags (R16, R20). -/
def affectFlags (aff : FlagSet) (r : AluResult) (s : State) : State := { s with status := statusAffected aff r s }

end Sys2Proof.Machine
end

