-- ==== Sys2Proof/Machine/Ops.lean ====
section
/-! DEFINITION. The named operations over registers, the stack and the watchdog (spec/10_state.md R12, R15, R24),
fetching (spec/20_memory.md R41), and taking an interrupt with the return from it (spec/60_exceptions.md R163, R166,
spec/42_literal_control.md R147). -/

namespace Sys2Proof.Machine

/-! ### Registers -/

/-- W takes a value (R10). -/
def State.setW (s : State) (v : Byte) : State := { s with w := v }

/-- The next instruction is the one at `a` (R12). -/
def State.setPc (s : State) (a : CodeAddr) : State := { s with pc := a }

/-- `pc <- pc + 1`, modulo 2^13 (R12, R13). -/
def State.advance (s : State) : State := s.setPc (s.pc + 1)

/-- `Skip(cond)` (R101): `pc + 2` when the test is true, `pc + 1` otherwise. -/
def State.skipIf (s : State) (cond : Bool) : State := s.setPc (if cond then s.pc + 2 else s.pc + 1)

/-- An instruction of `n` cycles (R201) executes: the cycle counter advances, the watchdog may time out again (R172)
and a wake-up's owed instruction is paid (R174). -/
def State.retire (s : State) (n : Nat) : State :=
  { s with cycles := s.cycles + n, wdtArmed := true, holdoff := false }

/-- The watchdog and its prescaler are cleared (R143, R150). -/
def State.clearWatchdog (s : State) : State := { s with wdt := 0, prescaler := 0, wdtArmed := false }

/-- FSR takes a value (R23). -/
def State.setFsr (s : State) (v : Byte) : State := { s with fsr := v }

/-- PCLATH takes the low five bits of a value (R14). -/
def State.setPclath (s : State) (v : Byte) : State := { s with pclath := v.extractLsb' 0 5 }

/-- INTCON takes a value, GIE included (R21). -/
def State.setIntcon (s : State) (v : Byte) : State := { s with intcon := v }

/-- A physical RAM cell takes a value (R28). -/
def State.setRam (s : State) (cell : Nat) (v : Byte) : State := { s with ram := ramWrite s.ram cell v }

/-- OPTION_REG takes a value (R26). -/
def State.setOptionReg (s : State) (v : Byte) : State := { s with optionReg := v }

/-- TMR0 is written: the prescaler is cleared if it is assigned to Timer0 (R26, Table 13-2 Note 2). -/
def State.setTmr0 (s : State) (v : Byte) : State :=
  { s with tmr0 := v, prescaler := if s.prescalerOnTimer0 then 0 else s.prescaler }

/-- `n` free values are counted as taken (log 5). -/
def State.countDraws (s : State) (n : Nat) : State := { s with draws := s.draws + n }

/-- A free byte is taken (log 5). -/
def State.drawByte (s : State) : Byte × State := (Config.freeByte s.draws, s.countDraws 1)

/-- An output event is recorded (R47). -/
def State.emit (s : State) (a : DataAddr) (v : Byte) : State :=
  { s with outputs := { addr := a, value := v } :: s.outputs }

/-- The data latch of the I/O register at `a` (R27): the byte of the newest output event there, none if no file write
has reached it. DESIGN CHOICES: a latch not yet written, as after `State.reset`, has no value, the spec giving none (log 38);
a reset leaves it (log 37). -/
def State.latch (s : State) (a : DataAddr) : Option Byte := (s.outputs.find? (fun e => e.addr == a)).map (·.value)

/-- The target of CALL and GOTO (R142, R144): `PCLATH[4:3] : k`. -/
def State.jumpTarget (s : State) (k : BitVec 11) : CodeAddr := s.pclath.extractLsb' 3 2 ++ k

/-! ### The stack (R15) -/

/-- `Push(v)`; none is a stack overflow. With STACK_WRAP = circular the oldest entry is overwritten (log 7). -/
def push (v : CodeAddr) (s : State) : Option State :=
  if s.stack.length < stackDepth then some { s with stack := v :: s.stack, stale := s.stale.dropLast }
  else
    match s.cfg.stackWrap with
    | .fault => none
    | .circular => some { s with stack := v :: s.stack.dropLast }

/-- `Pop()`; none is a stack underflow. With STACK_WRAP = circular an empty stack answers a stale entry (log 7). -/
def pop (s : State) : Option (CodeAddr × State) :=
  match s.stack with
  | v :: rest => some (v, { s with stack := rest, stale := s.stale ++ [v] })
  | [] =>
    match s.cfg.stackWrap with
    | .fault => none
    | .circular =>
      match s.stale with
      | v :: rest => some (v, { s with stale := rest ++ [v] })
      | [] => none

/-! ### Interrupts -/

/-- The interrupt request (R163); `periph` is the peripherals' part of it. -/
def irq (periph : Bool) (s : State) : Bool :=
  (s.intcon.getLsbD bitT0IE && s.intcon.getLsbD bitT0IF)
    || (s.intcon.getLsbD bitINTE && s.intcon.getLsbD bitINTF)
    || (s.intcon.getLsbD bitRBIE && s.intcon.getLsbD bitRBIF)
    || (s.intcon.getLsbD bitPEIE && periph)

/-- Taking an interrupt (R166): GIE is cleared, the address of the next instruction is pushed, control goes to the
vector; nothing else is saved or changed. -/
def takeInterrupt (s : State) : Outcome :=
  match push s.pc (s.setGie false) with
  | none => .fault (.stackOverflow s.pc)
  | some t => .next (t.setPc irqVector)

/-- The return from an interrupt (R147), the entry's mirror: `pc <- Pop(); GIE <- 1`. -/
def returnFromInterrupt (s : State) : Outcome :=
  match pop s with
  | none => .fault (.stackUnderflow s.pc)
  | some (a, t) => .next ((t.setPc a).setGie true)

/-! ### Fetching -/

/-- The word at pc (R41): none at or above PROG_WORDS (R13) or where the program gives no word. -/
def fetch (s : State) : Option InstrWord :=
  if s.pc.toNat < s.cfg.progWords.count then progRead s.prog s.pc else none

/-- The refusal of a word that is no instruction (R78, R79), "naming the address and the word". -/
def refuseWord (e : DecodeReject) (pc : CodeAddr) (word : InstrWord) : Refusal :=
  match e with
  | .unlistedWord => .unlistedWord pc word
  | .optionTris => .optionTris pc word

/-- The state with a word loaded at pc and everything set so that the next step runs it: the core's turn, the running
mode, a program size that covers pc (log 19). -/
def loadAtPc (s : State) (word : InstrWord) : State :=
  { s with
    prog := progLoad s.prog s.pc word
    mode := .running
    turns := []
    cfg := if s.pc.toNat < s.cfg.progWords.count then s.cfg else { s.cfg with progWords := .w8192 } }

end Sys2Proof.Machine
end

