-- ==== Sys2Proof/Machine/Operands.lean ====
section
/-! DEFINITION. The operand forms: from `f` to a data address (spec/20_memory.md R42, R43), what stands at each data
address and how it is read and written (R46 to R49), and the shapes of operation that the instructions share
(spec/40_byte_oriented.md R100, R101; spec/30_encoding.md R75 for the cycles). -/

namespace Sys2Proof.Machine

/-! ### Data addresses -/

/-- The data address an instruction's `f` designates, from STATUS and FSR as they stand before the instruction (R42
direct, R43 indirect; computed once, R44, R45). -/
def dataAddr (f : FileNo) (s : State) : DataAddr :=
  if f = indfNo then s.irp ++ s.fsr else s.bank ++ f

/-- What stands at a data address (R46, R47). The last three are the device class of R49. -/
inductive FileClass where
  | indf
  | pcl
  | status
  | fsr
  | pclath
  | intcon
  /-- General purpose RAM: the physical cell (R48). -/
  | ram (cell : Nat)
  /-- TMR0 (R26). -/
  | tmr0
  /-- OPTION_REG (R26). -/
  | optionReg
  /-- Any other peripheral register or unimplemented location (R49). -/
  | device
  deriving DecidableEq, Repr

/-- `GPR_MAP` (R48): the physical RAM cell at a data address, none where there is none. -/
def ramCell (map : RamMap) (a : DataAddr) : Option Nat :=
  let n := a.toNat
  match map with
  | .pic876 =>
    if 0x020 ≤ n ∧ n ≤ 0x07F then some n
    else if 0x0A0 ≤ n ∧ n ≤ 0x0EF then some n
    else if 0x0F0 ≤ n ∧ n ≤ 0x0FF then some (n - 0x080)
    else if 0x110 ≤ n ∧ n ≤ 0x16F then some n
    else if 0x170 ≤ n ∧ n ≤ 0x17F then some (n - 0x100)
    else if 0x190 ≤ n ∧ n ≤ 0x1EF then some n
    else if 0x1F0 ≤ n ∧ n ≤ 0x1FF then some (n - 0x180)
    else none
  | .pic873 =>
    if 0x020 ≤ n ∧ n ≤ 0x07F then some n
    else if 0x0A0 ≤ n ∧ n ≤ 0x0FF then some n
    else if 0x120 ≤ n ∧ n ≤ 0x17F then some (n - 0x100)
    else if 0x1A0 ≤ n ∧ n ≤ 0x1FF then some (n - 0x100)
    else none

/-- The class of a data address (R46, R48, R49): the core registers in every bank, then RAM, then the device class. -/
def fileClass (map : RamMap) (a : DataAddr) : FileClass :=
  let low := a.extractLsb' 0 7
  if low = indfNo then .indf
  else if low = pclNo then .pcl
  else if low = statusNo then .status
  else if low = fsrNo then .fsr
  else if low = pclathNo then .pclath
  else if low = intconNo then .intcon
  else if low = timerNo then (if a.getLsbD 7 then .optionReg else .tmr0)
  else
    match ramCell map a with
    | some c => .ram c
    | none => .device

/-- The class of a data address in the machine's own map. -/
def State.classOf (s : State) (a : DataAddr) : FileClass := fileClass s.cfg.ramMap a

/-! ### Reading and writing -/

/-- `DataRead(a)` (R46): the byte, and the state after the read, which differs only by the free value that a
device-class read takes. -/
def dataRead (a : DataAddr) (s : State) : Byte × State :=
  match s.classOf a with
  | .indf => (0x00#8, s)
  | .pcl => ((s.pc + 1).extractLsb' 0 8, s)
  | .status => (s.status, s)
  | .fsr => (s.fsr, s)
  | .pclath => (0b000#3 ++ s.pclath, s)
  | .intcon => (s.intcon, s)
  | .ram c => (ramRead s.ram c, s)
  | .tmr0 | .optionReg | .device => s.drawByte

/-- `DataWrite(a, v, aff)` (R47). A write to PCL replaces the pc (R22); TMR0 and OPTION_REG keep what R26 needs of the
write besides the output event. -/
def dataWrite (a : DataAddr) (v : Byte) (aff : FlagSet) (s : State) : State :=
  match s.classOf a with
  | .indf => s
  | .pcl => s.setPc (s.pclath ++ v)
  | .status => writeStatus v aff s
  | .fsr => s.setFsr v
  | .pclath => s.setPclath v
  | .intcon => s.setIntcon v
  | .ram c => s.setRam c v
  | .tmr0 => (s.setTmr0 v).emit a v
  | .optionReg => (s.setOptionReg v).emit a v
  | .device => s.emit a v

/-- `Dest(f, d, v, aff)` (R100) at the data address that `f` designates. -/
def storeDest (a : DataAddr) (d : Dest) (v : Byte) (aff : FlagSet) (s : State) : State :=
  match d with
  | .w => s.setW v
  | .f => dataWrite a v aff s

/-- Whether the operation writes PCL: the file register is the destination and resolves to it (R22). -/
def writesPcl (a : DataAddr) (d : Dest) (s : State) : Bool := decide (d = .f ∧ s.classOf a = .pcl)

/-- The cycles of an instruction that does not skip: "1, or 2 when the destination is PCL" (R201). -/
def destCycles (a : DataAddr) (d : Dest) (s : State) : Nat := if writesPcl a d s then 2 else 1

/-! ### Shared shapes -/

/-- An instruction that reads `f`, computes, and writes its destination and its flags (R102 to R119, R131, R132): the
read comes first, `pc <- pc + 1` is replaced by a write to PCL. -/
def readModifyStore (f : FileNo) (d : Dest) (aff : FlagSet) (op : Byte → AluResult) (s : State) : Outcome :=
  let a := dataAddr f s
  let (v, s1) := dataRead a s
  let r := op v
  let s2 := (s1.retire (destCycles a d s)).advance
  .next (affectFlags aff r (storeDest a d r.val aff s2))

/-- An instruction that writes `f` without reading it (CLRF, MOVWF; R52, R104, R113). -/
def storeOnly (f : FileNo) (aff : FlagSet) (r : AluResult) (s : State) : Outcome :=
  let a := dataAddr f s
  let s2 := (s.retire (destCycles a .f s)).advance
  .next (affectFlags aff r (dataWrite a r.val aff s2))

/-- INCFSZ and DECFSZ (R108, R110): the result is stored, no flag is written, and a zero result skips. Storing into PCL
is refused (R22, D25; log 23). -/
def storeAndSkip (f : FileNo) (d : Dest) (op : Byte → Byte) (s : State) : Outcome :=
  let a := dataAddr f s
  if writesPcl a d s then .refused (.skipWritesPcl s.pc)
  else
    let (v, s1) := dataRead a s
    let r := op v
    let skip := r == 0x00#8
    let s2 := (s1.retire (if skip then 2 else 1)).skipIf skip
    .next (storeDest a d r FlagSet.none s2)

/-- BTFSC and BTFSS (R133, R134): `f` is read and not written; the instruction skips when the bit is `value`. -/
def testBitAndSkip (f : FileNo) (b : Nat) (value : Bool) (s : State) : Outcome :=
  let (v, s1) := dataRead (dataAddr f s) s
  let skip := v.getLsbD b == value
  .next ((s1.retire (if skip then 2 else 1)).skipIf skip)

/-- An instruction that only writes W and flags (CLRW and the literal operations, R105, R140 to R152). -/
def storeW (aff : FlagSet) (r : AluResult) (s : State) : Outcome :=
  .next (affectFlags aff r ((s.retire 1).advance.setW r.val))

/-- `pc <- Pop()` in two cycles (RETURN, RETLW; R148, R149). -/
def popAndGo (s : State) : Outcome :=
  match pop (s.retire 2) with
  | none => .fault (.stackUnderflow s.pc)
  | some (a, t) => .next (t.setPc a)

end Sys2Proof.Machine
end

