-- ==== Sys2Proof/Machine/BitOriented.lean ====
section
/-! DEFINITION. The meanings of the 4 bit-oriented file register operations (spec/41_bit_oriented.md R131 to R134). A
bit number above 7 is no operand of the hardware (WellFormed, log 36). -/

namespace Sys2Proof.Machine

/-- BCF f, b (R131): the whole register is read, bit b cleared, the whole register written back. -/
def execBcf (f : FileNo) (b : Nat) (s : State) : Outcome :=
  readModifyStore f .f FlagSet.none (fun v => plain (clearBit v b)) s

/-- BSF f, b (R132): the whole register is read, bit b set, the whole register written back. -/
def execBsf (f : FileNo) (b : Nat) (s : State) : Outcome :=
  readModifyStore f .f FlagSet.none (fun v => plain (setBit v b)) s

/-- BTFSC f, b (R133): skip if bit b is 0. -/
def execBtfsc (f : FileNo) (b : Nat) (s : State) : Outcome := testBitAndSkip f b false s

/-- BTFSS f, b (R134): skip if bit b is 1. -/
def execBtfss (f : FileNo) (b : Nat) (s : State) : Outcome := testBitAndSkip f b true s

end Sys2Proof.Machine
end

