-- ==== Sys2Proof/Machine/ByteOriented.lean ====
section
/-! DEFINITION. The meanings of the 18 byte-oriented file register operations (spec/40_byte_oriented.md R102 to R119),
in the table's order. -/

namespace Sys2Proof.Machine

/-- ADDWF f, d (R102): W + f. -/
def execAddwf (f : FileNo) (d : Dest) (s : State) : Outcome :=
  readModifyStore f d FlagSet.cdcz (fun v => add8 s.w v) s

/-- ANDWF f, d (R103): W AND f. -/
def execAndwf (f : FileNo) (d : Dest) (s : State) : Outcome :=
  readModifyStore f d FlagSet.onlyZ (fun v => plain (s.w &&& v)) s

/-- CLRF f (R104): f takes 0x00, Z is set; f is not read. -/
def execClrf (f : FileNo) (s : State) : Outcome := storeOnly f FlagSet.onlyZ (plain 0x00#8) s

/-- CLRW (R105): W takes 0x00, Z is set. -/
def execClrw (s : State) : Outcome := storeW FlagSet.onlyZ (plain 0x00#8) s

/-- COMF f, d (R106): the ones' complement of f. -/
def execComf (f : FileNo) (d : Dest) (s : State) : Outcome :=
  readModifyStore f d FlagSet.onlyZ (fun v => plain (~~~v)) s

/-- DECF f, d (R107): f - 1; C and DC are not affected. -/
def execDecf (f : FileNo) (d : Dest) (s : State) : Outcome :=
  readModifyStore f d FlagSet.onlyZ (fun v => plain (v - 1)) s

/-- DECFSZ f, d (R108): f - 1, skip if the result is 0; no flag. -/
def execDecfsz (f : FileNo) (d : Dest) (s : State) : Outcome := storeAndSkip f d (fun v => v - 1) s

/-- INCF f, d (R109): f + 1; C and DC are not affected. -/
def execIncf (f : FileNo) (d : Dest) (s : State) : Outcome :=
  readModifyStore f d FlagSet.onlyZ (fun v => plain (v + 1)) s

/-- INCFSZ f, d (R110): f + 1, skip if the result is 0; no flag. -/
def execIncfsz (f : FileNo) (d : Dest) (s : State) : Outcome := storeAndSkip f d (fun v => v + 1) s

/-- IORWF f, d (R111): W OR f. -/
def execIorwf (f : FileNo) (d : Dest) (s : State) : Outcome :=
  readModifyStore f d FlagSet.onlyZ (fun v => plain (s.w ||| v)) s

/-- MOVF f, d (R112): the value of f, written back with d = 1. -/
def execMovf (f : FileNo) (d : Dest) (s : State) : Outcome := readModifyStore f d FlagSet.onlyZ (fun v => plain v) s

/-- MOVWF f (R113): f takes W; f is not read, no flag. -/
def execMovwf (f : FileNo) (s : State) : Outcome := storeOnly f FlagSet.none (plain s.w) s

/-- NOP (R114): only pc advances. -/
def execNop (s : State) : Outcome := .next (s.retire 1).advance

/-- RLF f, d (R115): a 9-bit rotate left of C and f. -/
def execRlf (f : FileNo) (d : Dest) (s : State) : Outcome :=
  readModifyStore f d FlagSet.onlyC (fun v => rotateLeft v s.flagC) s

/-- RRF f, d (R116): a 9-bit rotate right of C and f. -/
def execRrf (f : FileNo) (d : Dest) (s : State) : Outcome :=
  readModifyStore f d FlagSet.onlyC (fun v => rotateRight v s.flagC) s

/-- SUBWF f, d (R117): f - W. -/
def execSubwf (f : FileNo) (d : Dest) (s : State) : Outcome :=
  readModifyStore f d FlagSet.cdcz (fun v => sub8 v s.w) s

/-- SWAPF f, d (R118): the nibbles of f exchanged; no flag. -/
def execSwapf (f : FileNo) (d : Dest) (s : State) : Outcome :=
  readModifyStore f d FlagSet.none (fun v => plain (swapNibbles v)) s

/-- XORWF f, d (R119): W XOR f. -/
def execXorwf (f : FileNo) (d : Dest) (s : State) : Outcome :=
  readModifyStore f d FlagSet.onlyZ (fun v => plain (s.w ^^^ v)) s

end Sys2Proof.Machine
end

