-- ==== Sys2Proof/Machine/LiteralControl.lean ====
section
/-! DEFINITION. The meanings of the 13 literal and control operations (spec/42_literal_control.md R140 to R152), in the
table's order. -/

namespace Sys2Proof.Machine

/-- ADDLW k (R140): W + k. -/
def execAddlw (k : Byte) (s : State) : Outcome := storeW FlagSet.cdcz (add8 s.w k) s

/-- ANDLW k (R141): W AND k. -/
def execAndlw (k : Byte) (s : State) : Outcome := storeW FlagSet.onlyZ (plain (s.w &&& k)) s

/-- CALL k (R142): the return address pc + 1 is pushed, control goes to `PCLATH[4:3] : k`. -/
def execCall (k : BitVec 11) (s : State) : Outcome :=
  match push (s.pc + 1) (s.retire 2) with
  | none => .fault (.stackOverflow s.pc)
  | some t => .next (t.setPc (s.jumpTarget k))

/-- CLRWDT (R143): the watchdog and the prescaler are cleared, TO and PD set. -/
def execClrwdt (s : State) : Outcome := .next ((s.retire 1).advance.clearWatchdog.setTimeoutBits true true)

/-- GOTO k (R144): control goes to `PCLATH[4:3] : k`. -/
def execGoto (k : BitVec 11) (s : State) : Outcome := .next ((s.retire 2).setPc (s.jumpTarget k))

/-- IORLW k (R145): W OR k. -/
def execIorlw (k : Byte) (s : State) : Outcome := storeW FlagSet.onlyZ (plain (s.w ||| k)) s

/-- MOVLW k (R146): W takes k; no flag. -/
def execMovlw (k : Byte) (s : State) : Outcome := storeW FlagSet.none (plain k) s

/-- RETFIE (R147): the return from an interrupt. -/
def execRetfie (s : State) : Outcome := returnFromInterrupt (s.retire 2)

/-- RETLW k (R148): W takes k, and return. -/
def execRetlw (k : Byte) (s : State) : Outcome := popAndGo (s.setW k)

/-- RETURN (R149). -/
def execRetn (s : State) : Outcome := popAndGo s

/-- SLEEP (R150): the watchdog and the prescaler are cleared, TO set, PD cleared, pc advances, the mode is Sleeping
(log 26 for a SLEEP with a request pending). -/
def execSleep (s : State) : Outcome :=
  let t := (s.retire 1).advance.clearWatchdog.setTimeoutBits true false
  .next { t with mode := .sleeping }

/-- SUBLW k (R151): k - W. -/
def execSublw (k : Byte) (s : State) : Outcome := storeW FlagSet.cdcz (sub8 k s.w) s

/-- XORLW k (R152): W XOR k. -/
def execXorlw (k : Byte) (s : State) : Outcome := storeW FlagSet.onlyZ (plain (s.w ^^^ k)) s

end Sys2Proof.Machine
end

