-- ==== Sys2Proof/Machine/Env.lean ====
section
/-! DEFINITION. The moves of the environment (spec/20_memory.md R56): interrupt flags (spec/60_exceptions.md R162),
interrupt entry (R166), wake-up (R174), watchdog time-out (R172), resets (spec/70_reset_and_hazards.md R190, with the
columns of spec/10_state.md R31). A move whose condition does not hold does not happen (log 10). -/

namespace Sys2Proof.Machine

/-! ### Resets -/

/-- What every reset but power-on does (R31, R190): pc, PCLATH, INTCON, OPTION_REG, watchdog, prescaler, mode; the stack
is emptied and its entries are free addresses (U19; log 8). STATUS is the caller's. DESIGN CHOICE, log 37: the output
events stay, so an I/O register's data latch keeps the byte last written, where R31 says nothing. -/
def resetCore (s : State) : State :=
  { s with
    pc := resetVector
    pclath := pclathReset
    intcon := s.intcon &&& 0x01#8
    optionReg := optionRegReset
    stack := []
    stale := (List.range stackDepth).map (fun i => Config.freeCodeAddr (s.draws + i))
    draws := s.draws + stackDepth
    wdt := 0
    prescaler := 0
    wdtArmed := false
    holdoff := false
    mode := .running }

/-- MCLR reset in normal operation (R31: STATUS `000u uuuu`), and brown-out (R190: "acts as an MCLR reset in normal
operation"). -/
def resetNormal (s : State) : State := { resetCore s with status := s.status &&& 0x1F#8 }

/-- MCLR reset during SLEEP (R31: STATUS `0001 0uuu`). -/
def resetInSleep (s : State) : State :=
  { resetCore s with status := packStatus 0b000#3 true false s.flagZ s.flagDC s.flagC }

/-- Watchdog time-out reset (R31: STATUS `0000 1uuu`). -/
def resetWatchdog (s : State) : State :=
  { resetCore s with status := packStatus 0b000#3 false true s.flagZ s.flagDC s.flagC }

/-- Power-on reset during a run (R31, R190): the machine is as `State.reset` says; the program, the parameters, the
schedule and the records of the run stay (log 30), the data latches with the output events (log 37). -/
def resetPowerOn (s : State) : State :=
  { State.reset with
    prog := s.prog
    cfg := s.cfg
    turns := s.turns
    draws := s.draws
    outputs := s.outputs
    cycles := s.cycles }

/-! ### Wake-up (R174) -/

/-- An interrupt request wakes the machine (R174, and R31: STATUS `uuu1 0uuu`): execution continues at pc, and if
GIE = 1 the instruction there runs before the vector (log 11). -/
def wakeByInterrupt (s : State) : State :=
  { s.setTimeoutBits true false with mode := .running, holdoff := s.gie }

/-- A watchdog time-out wakes the machine (R174, and R31: STATUS `uuu0 0uuu`, watchdog and prescaler 0). -/
def wakeByWatchdog (s : State) : State := { s.clearWatchdog.setTimeoutBits false false with mode := .running }

/-! ### The moves -/

/-- The INTCON bit number of a flag (R162). -/
def IrqFlag.bitNo (flag : IrqFlag) : Nat :=
  match flag with
  | .t0if => bitT0IF
  | .intf => bitINTF
  | .rbif => bitRBIF

/-- An event sets its flag "whether or not its enable bit or GIE is set" (R162). TMR0 does not roll over with the
oscillator stopped, so T0IF is not raised in SLEEP (R174; log 13). -/
def raiseFlag (flag : IrqFlag) (s : State) : State :=
  if flag = .t0if ∧ s.mode = .sleeping then s else { s with intcon := setBit s.intcon flag.bitNo }

/-- Whether an interrupt may be taken now (R166), a wake-up's owed instruction paid (R174). -/
def interruptTakeable (periph : Bool) (s : State) : Bool :=
  decide (s.mode = .running) && s.gie && irq periph s && !s.holdoff

/-- Whether a watchdog time-out may happen now: the watchdog is enabled and, in the running mode, "at least one
instruction has executed since the last CLRWDT or SLEEP" (R172; R174 sets no such condition in SLEEP; log 14). -/
def timeoutAdmitted (s : State) : Bool := s.cfg.wdtEnabled && (decide (s.mode = .sleeping) || s.wdtArmed)

/-- Whether a wake-up event of R174 is admitted in SLEEP: an interrupt request, of which `periph` is the peripherals' part,
or a time-out of the enabled watchdog. A reset is admitted only as a scheduled move (R178, R190). -/
def wakeAdmitted (periph : Bool) (s : State) : Bool := irq periph s || timeoutAdmitted s

/-- One move of the environment. -/
def envMove (move : Move) (s : State) : Outcome :=
  match move with
  | .raise flag => .next (raiseFlag flag s)
  | .interrupt periph => if interruptTakeable periph s then takeInterrupt s else .next s
  | .wake periph => .next (if s.mode = .sleeping ∧ irq periph s = true then wakeByInterrupt s else s)
  | .wdtTimeout =>
    if timeoutAdmitted s then
      match s.mode with
      | .running => .next (resetWatchdog s)
      | .sleeping => .next (wakeByWatchdog s)
    else .next s
  | .mclr =>
    match s.mode with
    | .running => .next (resetNormal s)
    | .sleeping => .next (resetInSleep s)
  | .brownOut => .next (resetNormal s)
  | .powerOn => .next (resetPowerOn s)

end Sys2Proof.Machine
end

