-- ==== Sys2Proof/Machine/Step.lean ====
section
/-! DEFINITION. One step of the machine: a turn of the core (fetch, decode, execute: spec/30_encoding.md R80; nothing in
SLEEP: spec/10_state.md R25) or a move of the environment (spec/20_memory.md R56). -/

namespace Sys2Proof.Machine

/-- The core's turn. A sleeping core idles (R25: "no instruction is fetched or executed; all other state keeps its
value"; log 12). -/
def coreTurn (s : State) : Host.Outcome State Fault Refusal :=
  match s.mode with
  | .sleeping => .next s
  | .running =>
    match fetch s with
    | none => .fault (.fetchOutsideProgram s.pc)
    | some word =>
      match decode word with
      | .error e => .refused (refuseWord e s.pc word)
      | .ok i => exec i s

/-- One step: the next turn of the schedule is used up; with none scheduled it is the core's turn (log 9). -/
def step (s : State) : Host.Outcome State Fault Refusal :=
  match s.turns with
  | [] => coreTurn s
  | .core :: rest => coreTurn { s with turns := rest }
  | .env move :: rest => envMove move { s with turns := rest }

/-- `s` with the instruction whose bits are `w` loaded where `step` fetches next (log 19, log 20). -/
def State.withFetchWord (s : State) (nbits w : Nat) : State := loadAtPc s (BitVec.ofNat 14 (w % 2 ^ nbits))

end Sys2Proof.Machine
end

