-- ==== Sys2Proof/Safety.lean ====
section
/-! DEFINITION. The terms in which claims about the machine are stated: the invariant of the state, the end of a run
(spec/60_exceptions.md R178), which file register an instruction writes (spec/20_memory.md R52), and a description of
everything an instruction may change, field by field. -/

namespace Sys2Proof.Machine

/-- The state is well formed: the RAM and the program are canonical, the RAM lists only cells that the map has (R48), and
the stack and the entries above it are the eight of R15. -/
abbrev State.Inv (s : State) : Prop :=
  Memory.wf s.ram
    ∧ (∀ x ∈ s.ram, x.1 < 2 ^ 9 ∧ ramCell s.cfg.ramMap (BitVec.ofNat 9 x.1) = some x.1)
    ∧ progWf s.prog
    ∧ s.stack.length + s.stale.length = stackDepth

/-- Now and after each of the next `n` steps the machine sleeps and no wake-up event is admitted (R174). -/
def restsFor (periph : Bool) (n : Nat) (s : State) : Bool :=
  decide (s.mode = .sleeping) && !wakeAdmitted periph s &&
    match n with
    | 0 => true
    | k + 1 =>
      match step s with
      | .next t => restsFor periph k t
      | .fault _ | .refused _ => false

/-- The first end of a run in R178: "`mode = Sleeping` with no wake-up event admitted", now or by the scheduled turns (a
raised flag may make a request, a reset wakes the machine; log 12). -/
def atRest (periph : Bool) (s : State) : Bool := restsFor periph s.turns.length s

/-- The end of a run (R178): the machine is at rest, or pc is END_PC. The claim names END_PC, and by `periph` whether its
premises admit a request of the peripherals (R163). -/
def endOfRun (endPc : CodeAddr) (periph : Bool) (s : State) : Bool := atRest periph s || decide (s.pc = endPc)

/-- The next step is the core's turn: it is scheduled, or nothing is (log 9). -/
abbrev State.coreNext (s : State) : Prop := s.turns = [] ∨ ∃ rest, s.turns = .core :: rest

/-- A safe step answers a next state: neither a fault nor a refusal. -/
abbrev SafeStep (s : State) : Prop := ∃ t, step s = .next t

/-- The data address that an instruction writes as a file register, if it writes one (R52). -/
def writeTarget (i : Instr) (s : State) : Option DataAddr :=
  match i with
  | .addwf f d | .andwf f d | .comf f d | .decf f d | .decfsz f d | .incf f d | .incfsz f d | .iorwf f d | .movf f d
  | .rlf f d | .rrf f d | .subwf f d | .swapf f d | .xorwf f d => if d = .f then some (dataAddr f s) else none
  | .clrf f | .movwf f | .bcf f _ | .bsf f _ => some (dataAddr f s)
  | .clrw | .nop | .btfsc _ _ | .btfss _ _ | .addlw _ | .andlw _ | .call _ | .clrwdt | .goto _ | .iorlw _ | .movlw _
  | .retfie | .retlw _ | .retn | .sleep | .sublw _ | .xorlw _ => none

/-- The instruction writes, as a file register, the register of class `k`. -/
abbrev WritesFile (i : Instr) (s : State) (k : FileClass) : Prop := ∃ a, writeTarget i s = some a ∧ s.classOf a = k

/-- Whether a class is of the device class of R49, TMR0 and OPTION_REG among them. -/
def FileClass.isDevice (k : FileClass) : Bool :=
  match k with
  | .tmr0 | .optionReg | .device => true
  | .indf | .pcl | .status | .fsr | .pclath | .intcon | .ram _ => false

/-- The value an instruction finds in the file register `f` (R44). -/
def fileValue (f : FileNo) (s : State) : Byte := (dataRead (dataAddr f s) s).1

/-- The byte that a file register instruction puts in its destination, whatever that is (R102 to R119, R131, R132). -/
def fileResult (i : Instr) (s : State) : Option Byte :=
  match i with
  | .addwf f _ => some (s.w + fileValue f s)
  | .andwf f _ => some (s.w &&& fileValue f s)
  | .clrf _ => some 0x00#8
  | .comf f _ => some (~~~fileValue f s)
  | .decf f _ | .decfsz f _ => some (fileValue f s - 1)
  | .incf f _ | .incfsz f _ => some (fileValue f s + 1)
  | .iorwf f _ => some (s.w ||| fileValue f s)
  | .movf f _ => some (fileValue f s)
  | .movwf _ => some s.w
  | .rlf f _ => some ((fileValue f s).extractLsb' 0 7 ++ BitVec.ofBool s.flagC)
  | .rrf f _ => some (BitVec.ofBool s.flagC ++ (fileValue f s).extractLsb' 1 7)
  | .subwf f _ => some (fileValue f s - s.w)
  | .swapf f _ => some ((fileValue f s).extractLsb' 0 4 ++ (fileValue f s).extractLsb' 4 4)
  | .xorwf f _ => some (s.w ^^^ fileValue f s)
  | .bcf f b => some (fileValue f s &&& ~~~(1#8 <<< b))
  | .bsf f b => some (fileValue f s ||| 1#8 <<< b)
  | .clrw | .nop | .btfsc _ _ | .btfss _ _ | .addlw _ | .andlw _ | .call _ | .clrwdt | .goto _ | .iorlw _ | .movlw _
  | .retfie | .retlw _ | .retn | .sleep | .sublw _ | .xorlw _ => none

/-- Everything that an instruction without a stack, watchdog or mode effect does: what it reads and writes. -/
structure Effect where
  /-- The data address of its file register. -/
  addr : DataAddr := 0
  /-- It reads that register (a device-class read takes a free value). -/
  reads : Bool := false
  /-- The byte it puts in W. -/
  toW : Option Byte := none
  /-- The byte it writes to the file register. -/
  toF : Option Byte := none
  /-- Its "Status Affected", and the values of the flags it affects. -/
  aff : FlagSet := FlagSet.none
  c : Bool := false
  dc : Bool := false
  z : Bool := false
  /-- The next pc, unless it writes PCL. -/
  next : CodeAddr
  /-- Its cycles. -/
  cycles : Nat := 1

/-- The effect writes the file register, and that is the one of class `k`. -/
def Effect.writes (e : Effect) (s : State) (k : FileClass) : Bool := e.toF.isSome && decide (s.classOf e.addr = k)

/-- The byte written to the file register (used only where one is). -/
def Effect.byte (e : Effect) : Byte := e.toF.getD 0

/-- `t` is `s` after the effect: one line for each piece of state, the unchanged ones too. -/
structure Effect.Holds (e : Effect) (s t : State) : Prop where
  w : t.w = e.toW.getD s.w
  pc : t.pc = if e.writes s .pcl then s.pclath ++ e.byte else e.next
  bankBits : t.status.extractLsb' 5 3 = if e.writes s .status then e.byte.extractLsb' 5 3 else s.status.extractLsb' 5 3
  timeOut : t.flagTO = s.flagTO
  powerDown : t.flagPD = s.flagPD
  flagZ : t.flagZ =
    if e.aff.z then e.z else if e.writes s .status && decide (e.aff = FlagSet.none) then e.byte.getLsbD 2 else s.flagZ
  flagDC : t.flagDC =
    if e.aff.dc then e.dc else if e.writes s .status && decide (e.aff = FlagSet.none) then e.byte.getLsbD 1 else s.flagDC
  flagC : t.flagC =
    if e.aff.c then e.c else if e.writes s .status && decide (e.aff = FlagSet.none) then e.byte.getLsbD 0 else s.flagC
  fsr : t.fsr = if e.writes s .fsr then e.byte else s.fsr
  pclath : t.pclath = if e.writes s .pclath then e.byte.extractLsb' 0 5 else s.pclath
  intcon : t.intcon = if e.writes s .intcon then e.byte else s.intcon
  optionReg : t.optionReg = if e.writes s .optionReg then e.byte else s.optionReg
  tmr0 : t.tmr0 = if e.writes s .tmr0 then e.byte else s.tmr0
  prescaler : t.prescaler = if e.writes s .tmr0 && !s.optionReg.getLsbD 3 then 0 else s.prescaler
  ram : ∀ cell, ramRead t.ram cell = if e.writes s (.ram cell) then e.byte else ramRead s.ram cell
  outputs : t.outputs =
    if e.toF.isSome && (s.classOf e.addr).isDevice then { addr := e.addr, value := e.byte } :: s.outputs else s.outputs
  draws : t.draws = if e.reads && (s.classOf e.addr).isDevice then s.draws + 1 else s.draws
  cycles : t.cycles = s.cycles + e.cycles
  stack : t.stack = s.stack
  stale : t.stale = s.stale
  wdt : t.wdt = s.wdt
  mode : t.mode = s.mode
  prog : t.prog = s.prog
  cfg : t.cfg = s.cfg
  turns : t.turns = s.turns

/-- The effect, and what every executed instruction does to the model's own two bits (logs 11 and 14): the wake-up's owed
instruction is paid, and the watchdog may time out again. -/
structure Effect.Full (e : Effect) (s t : State) : Prop where
  holds : e.Holds s t
  wdtArmed : t.wdtArmed = true
  holdoff : t.holdoff = false

/-- The instruction completes with the effect: it answers a next state, the one the effect describes. -/
abbrev Completes (i : Instr) (s : State) (e : Effect) : Prop := ∃ t, exec i s = .next t ∧ e.Holds s t

/-- The effect of reading `f` and putting `r` in the destination that `d` names (R100). -/
def destEffect (f : FileNo) (d : Dest) (s : State) (r : Byte) (aff : FlagSet) (c dc : Bool) : Effect :=
  { addr := dataAddr f s
    reads := true
    toW := if d = .w then some r else none
    toF := if d = .f then some r else none
    aff := aff
    c := c
    dc := dc
    z := decide (r = 0x00#8)
    next := s.pc + 1
    cycles := if d = .f ∧ s.classOf (dataAddr f s) = .pcl then 2 else 1 }

/-- The effect of writing `r` to `f` without reading it. -/
def storeEffect (f : FileNo) (s : State) (r : Byte) (aff : FlagSet) : Effect :=
  { addr := dataAddr f s
    toF := some r
    aff := aff
    z := decide (r = 0x00#8)
    next := s.pc + 1
    cycles := if s.classOf (dataAddr f s) = .pcl then 2 else 1 }

/-- The effect of putting `r` in W, with no file register. -/
def wEffect (s : State) (r : Byte) (aff : FlagSet) (c dc : Bool) : Effect :=
  { toW := some r, aff := aff, c := c, dc := dc, z := decide (r = 0x00#8), next := s.pc + 1 }

/-- The instruction changes nothing outside the fields a control operation names: the frame of CALL, GOTO, the returns,
CLRWDT and SLEEP, each of which says what it does to pc, W, the stack, STATUS, INTCON, the watchdog and the mode. -/
structure SameData (s t : State) : Prop where
  fsr : t.fsr = s.fsr
  pclath : t.pclath = s.pclath
  optionReg : t.optionReg = s.optionReg
  tmr0 : t.tmr0 = s.tmr0
  ram : t.ram = s.ram
  prog : t.prog = s.prog
  outputs : t.outputs = s.outputs
  cfg : t.cfg = s.cfg
  turns : t.turns = s.turns
  draws : t.draws = s.draws

end Sys2Proof.Machine
end

