-- ==== Sys2Proof/Certificates/Slice0/Obligations.lean ====
section
/-! DEFINITION. The statements for the provers, from the numbered rules of spec/. First the encoding patterns in the
spec's own form (spec/30_encoding.md R75), then the statements. -/

namespace Sys2Proof.Machine

/-! ### Encoding patterns -/

/-- `oo oooo dfff ffff` is the instruction, with d = 0 for W and d = 1 for the file register. -/
abbrev ByteRow (op : BitVec 6) (i : FileNo → Dest → Instr) : Prop :=
  ∀ f : FileNo, decode (op ++ 0b0#1 ++ f) = .ok (i f .w) ∧ decode (op ++ 0b1#1 ++ f) = .ok (i f .f)

/-- `oo oooo offf ffff` is the instruction. -/
abbrev FileRow (op : BitVec 7) (i : FileNo → Instr) : Prop := ∀ f : FileNo, decode (op ++ f) = .ok (i f)

/-- `oo oobb bfff ffff` is the instruction. -/
abbrev BitRow (op : BitVec 4) (i : FileNo → Nat → Instr) : Prop :=
  ∀ (b : BitVec 3) (f : FileNo), decode (op ++ b ++ f) = .ok (i f b.toNat)

/-- `oo oooo kkkk kkkk` is the instruction. -/
abbrev LiteralRow (op : BitVec 6) (i : Byte → Instr) : Prop := ∀ k : Byte, decode (op ++ k) = .ok (i k)

/-- `oo okkk kkkk kkkk` is the instruction. -/
abbrev JumpRow (op : BitVec 3) (i : BitVec 11 → Instr) : Prop := ∀ k : BitVec 11, decode (op ++ k) = .ok (i k)

/-- The bits of a word that carry an instruction's operands, at their positions of R72. -/
def operandBits : Instr → InstrWord
  | .addwf f d | .andwf f d | .comf f d | .decf f d | .decfsz f d | .incf f d | .incfsz f d | .iorwf f d | .movf f d
  | .rlf f d | .rrf f d | .subwf f d | .swapf f d | .xorwf f d =>
    BitVec.ofNat 14 ((if d = .f then 2 ^ 7 else 0) + f.toNat)
  | .clrf f | .movwf f => BitVec.ofNat 14 f.toNat
  | .bcf f b | .bsf f b | .btfsc f b | .btfss f b => BitVec.ofNat 14 (b * 2 ^ 7 + f.toNat)
  | .addlw k | .andlw k | .iorlw k | .movlw k | .retlw k | .sublw k | .xorlw k => BitVec.ofNat 14 k.toNat
  | .call k | .goto k => BitVec.ofNat 14 k.toNat
  | .clrw | .nop | .clrwdt | .retfie | .retn | .sleep => 0#14

/-- The don't-care bits of an instruction's row (R74). -/
def dontCareBits : Instr → InstrWord
  | .clrw => 0x007F#14
  | .nop => 0x0060#14
  | .movlw _ | .retlw _ => 0x0300#14
  | .addlw _ | .sublw _ => 0x0100#14
  | .addwf _ _ | .andwf _ _ | .clrf _ | .comf _ _ | .decf _ _ | .decfsz _ _ | .incf _ _ | .incfsz _ _ | .iorwf _ _
  | .movf _ _ | .movwf _ | .rlf _ _ | .rrf _ _ | .subwf _ _ | .swapf _ _ | .xorwf _ _ | .bcf _ _ | .bsf _ _
  | .btfsc _ _ | .btfss _ _ | .andlw _ | .call _ | .clrwdt | .goto _ | .iorlw _ | .retfie | .retn | .sleep
  | .xorlw _ => 0x0000#14

/-- The words that no row of Table 13-2 matches, as R78 lists them. -/
def unlistedByR78 (n : Nat) : Prop :=
  (0x0001 ≤ n ∧ n ≤ 0x0007) ∨ (0x000A ≤ n ∧ n ≤ 0x001F) ∨ (0x0021 ≤ n ∧ n ≤ 0x003F) ∨ (0x0041 ≤ n ∧ n ≤ 0x005F) ∨
    n = 0x0061 ∨ n = 0x0062 ∨ (0x0065 ≤ n ∧ n ≤ 0x007F) ∨ (0x3B00 ≤ n ∧ n ≤ 0x3BFF)

/-- The four words that general knowledge gives to OPTION and TRIS (R79). -/
def isOptionOrTris (word : InstrWord) : Bool := [0x0062#14, 0x0065#14, 0x0066#14, 0x0067#14].contains word

/-- A data address of the device class (R49): it has no RAM cell, and none of the core registers of R46. -/
abbrev DeviceAddr (a : DataAddr) (s : State) : Prop :=
  ramCell s.cfg.ramMap a = none ∧ a.extractLsb' 0 7 ≠ 0x00#7 ∧ a.extractLsb' 0 7 ≠ 0x02#7 ∧ a.extractLsb' 0 7 ≠ 0x03#7 ∧
    a.extractLsb' 0 7 ≠ 0x04#7 ∧ a.extractLsb' 0 7 ≠ 0x0A#7 ∧ a.extractLsb' 0 7 ≠ 0x0B#7

/-- The value of PCLATH:byte that a write to PCL loads (R22). -/
def pclTarget (s : State) (v : Byte) : Nat := s.pclath.toNat * 256 + v.toNat

/-- One RLF on `f` after another, `n` times, each ending in a next state. -/
def rlfTimes (f : FileNo) : Nat → State → Outcome
  | 0, s => .next s
  | n + 1, s =>
    match exec (.rlf f .f) s with
    | .next t => rlfTimes f n t
    | .fault r => .fault r
    | .refused r => .refused r

end Sys2Proof.Machine

open Sys2Proof Sys2Proof.Machine

/-! ### Fetching, decoding, encoding -/

/-- In the running mode, with the core's turn, when pc holds a word that decodes to an instruction, the step is `exec` of
that instruction, at the state with the used turn gone and nothing else around it (R80). -/
def Obligations.StepRunsTheDecodedInstruction : Prop :=
  ∀ (s : State) (word : InstrWord) (i : Instr) (rest : List Turn),
    s.mode = .running → s.pc.toNat < s.cfg.progWords.count → progRead s.prog s.pc = some word → decode word = .ok i →
      (s.turns = [] → step s = exec i s) ∧
      (s.turns = .core :: rest → step s = exec i { s with turns := rest })

/-- Loading a word at pc makes the very next step run the instruction it decodes to, whatever the state was (log 19). -/
def Obligations.LoadedWordRunsNext : Prop :=
  ∀ (s : State) (n : Nat) (i : Instr),
    decodeTableWord 16 n = some i →
      step (s.withFetchWord 16 n) = exec i (s.withFetchWord 16 n) ∧ (s.withFetchWord 16 n).pc = s.pc ∧
        (s.withFetchWord 16 n).w = s.w ∧ (s.withFetchWord 16 n).status = s.status ∧
        (s.withFetchWord 16 n).ram = s.ram ∧ (s.withFetchWord 16 n).stack = s.stack

/-- At the core's turn, a fetch at or above PROG_WORDS, or at an address with no word, faults by name (R13, R41, D1). -/
def Obligations.FetchOutsideProgramFaults : Prop :=
  ∀ s : State, s.mode = .running → s.coreNext →
    (s.cfg.progWords.count ≤ s.pc.toNat ∨ ∀ x ∈ s.prog, x.1 ≠ s.pc.toNat) →
      step s = .fault (.fetchOutsideProgram s.pc)

/-- R78: which words are unlisted, how many words are listed, and that the machine refuses an unlisted one, naming the
address and the word, at the core's turn (the four words of R79 under their own name). -/
def Obligations.UnlistedWordsAreRefused : Prop :=
  (∀ word : InstrWord, (∃ e, decode word = .error e) ↔ unlistedByR78 word.toNat) ∧
    ((List.range 16384).filter (fun n => (decode (BitVec.ofNat 14 n)).isOk)).length = 16008 ∧
    (∀ (s : State) (word : InstrWord), s.mode = .running → s.coreNext → s.pc.toNat < s.cfg.progWords.count →
      progRead s.prog s.pc = some word → unlistedByR78 word.toNat →
        step s = .refused (if isOptionOrTris word then .optionTris s.pc word else .unlistedWord s.pc word))

/-- R79: OPTION and TRIS, in the running mode at the core's turn, are refused as OptionTris, and no other word is. -/
def Obligations.OptionAndTrisAreRefused : Prop :=
  (∀ (s : State) (word : InstrWord), s.mode = .running → s.coreNext → s.pc.toNat < s.cfg.progWords.count →
    progRead s.prog s.pc = some word →
      (word = 0x0062#14 ∨ word = 0x0065#14 ∨ word = 0x0066#14 ∨ word = 0x0067#14) →
        step s = .refused (.optionTris s.pc word)) ∧
    (∀ word : InstrWord, decode word = .error .optionTris →
      word = 0x0062#14 ∨ word = 0x0065#14 ∨ word = 0x0066#14 ∨ word = 0x0067#14)

/-- R75: a word is the instruction of a row iff the word under the row's mask is the row's match, and no word is of two
rows. -/
def Obligations.OpcodeMapIsTheDecoder : Prop :=
  (∀ (word : InstrWord) (i : Instr),
      word &&& rowMask i = rowMatch i ↔ ∃ j, decode word = .ok j ∧ rowMatch j = rowMatch i) ∧
    (∀ (word : InstrWord) (i j : Instr),
      word &&& rowMask i = rowMatch i → word &&& rowMask j = rowMatch j → rowMatch i = rowMatch j)

/-- R77: the encoded word is the row's match with the operand fields at their positions and every don't-care bit 0, and
decoding it gives the instruction back, for every well-formed instruction. -/
def Obligations.DecodeOfEncodeIsTheInstruction : Prop :=
  ∀ i : Instr, i.wellFormed = true →
    decode (encode i) = .ok i ∧ encode i = rowMatch i ||| operandBits i ∧ encode i &&& dontCareBits i = 0#14

/-- R74: a decoded word is well formed and encodes back to itself with its don't-care bits cleared, so both values of
every don't-care bit are the same instruction. -/
def Obligations.DontCareBitsAreIgnored : Prop :=
  ∀ (word : InstrWord) (i : Instr), decode word = .ok i →
    i.wellFormed = true ∧ encode i = word &&& ~~~dontCareBits i ∧
      ∀ x : InstrWord, decode ((word &&& ~~~dontCareBits i) ||| (x &&& dontCareBits i)) = .ok i

/-- Words written out from the patterns of R75, one of each family and one of each don't-care row. -/
def Obligations.SampleWordsDecode : Prop :=
  decode 0x07A0#14 = .ok (.addwf 0x20 .f) ∧ decode 0x0820#14 = .ok (.movf 0x20 .w) ∧
    decode 0x0083#14 = .ok (.movwf 0x03) ∧ decode 0x0180#14 = .ok (.clrf 0x00) ∧ decode 0x017F#14 = .ok .clrw ∧
    decode 0x0060#14 = .ok .nop ∧ decode 0x1FFF#14 = .ok (.btfss 0x7F 7) ∧ decode 0x13A0#14 = .ok (.bcf 0x20 7) ∧
    decode 0x3FFF#14 = .ok (.addlw 0xFF) ∧ decode 0x33FF#14 = .ok (.movlw 0xFF) ∧ decode 0x3755#14 = .ok (.retlw 0x55) ∧
    decode 0x3D02#14 = .ok (.sublw 0x02) ∧ decode 0x27FF#14 = .ok (.call 0x7FF) ∧ decode 0x2A34#14 = .ok (.goto 0x234) ∧
    decode 0x0008#14 = .ok .retn ∧ decode 0x0009#14 = .ok .retfie ∧ decode 0x0063#14 = .ok .sleep ∧
    decode 0x0064#14 = .ok .clrwdt

/-! ### Reset and the invariant -/

/-- The power-on values that R31 and R190 give; the unknown ones are the model's choice (logs 1 to 4) and not stated. -/
def Obligations.PowerOnResetValues : Prop :=
  State.reset.pc = 0x0000#13 ∧ State.reset.mode = .running ∧ State.reset.status.extractLsb' 3 5 = 0b00011#5 ∧
    State.reset.intcon.extractLsb' 1 7 = 0b0000000#7 ∧ State.reset.pclath = 0b00000#5 ∧
    State.reset.optionReg = 0xFF#8 ∧ State.reset.stack = [] ∧ State.reset.wdt = 0 ∧ State.reset.prescaler = 0

/-- The invariant holds right after reset. -/
def Obligations.ResetIsWellFormed : Prop := State.reset.Inv

/-- Every step, of the core or of the environment, keeps the invariant: canonical memories, only real RAM cells listed,
eight stack entries in all (the form of the memories and of the stack is the model's: logs 3, 7, 19). -/
def Obligations.EveryStepKeepsTheInvariant : Prop :=
  ∀ s t : State, s.Inv → step s = .next t → t.Inv

/-- R41, R60: no step writes program memory, and none changes the parameters. -/
def Obligations.ProgramMemoryIsNeverWritten : Prop :=
  ∀ s t : State, step s = .next t → t.prog = s.prog ∧ t.cfg = s.cfg

/-! ### Shared operations -/

/-- R17: `Add8`. -/
def Obligations.AdditionAndItsCarries : Prop :=
  ∀ a b : Byte,
    (add8 a b).val.toNat = (a.toNat + b.toNat) % 256 ∧
      ((add8 a b).c = true ↔ a.toNat + b.toNat > 255) ∧
      ((add8 a b).dc = true ↔ a.toNat % 16 + b.toNat % 16 > 15) ∧
      ((add8 a b).z = true ↔ (add8 a b).val = 0x00#8)

/-- R18: `Sub8`; C and DC are the complements of the borrows. -/
def Obligations.SubtractionAndItsBorrows : Prop :=
  (∀ a b : Byte,
    (sub8 a b).val.toNat = (a.toNat + 256 - b.toNat) % 256 ∧
      ((sub8 a b).c = true ↔ b.toNat ≤ a.toNat) ∧
      ((sub8 a b).dc = true ↔ b.toNat % 16 ≤ a.toNat % 16) ∧
      ((sub8 a b).z = true ↔ a = b)) ∧
    (∀ a : Byte, (sub8 a 0x00#8).c = true ∧ (sub8 a 0x00#8).dc = true) ∧
    (∀ a : Byte, (sub8 a a).val = 0x00#8 ∧ (sub8 a a).c = true ∧ (sub8 a a).dc = true ∧ (sub8 a a).z = true)

/-- R42: `DataAddr(f) = RP1 : RP0 : f[6:0]` for f other than 0, four banks of 128; `f` itself after reset. -/
def Obligations.DirectAddressesUseTheBankBits : Prop :=
  (∀ (f : FileNo) (s : State), f ≠ 0x00#7 →
    (dataAddr f s).toNat = (s.status.getLsbD 6).toNat * 256 + (s.status.getLsbD 5).toNat * 128 + f.toNat) ∧
    (∀ f : FileNo, f ≠ 0x00#7 → (dataAddr f State.reset).toNat = f.toNat)

/-- R43: `DataAddr(0x00) = IRP : FSR[7:0]`; INDF through itself reads 0x00 and a write writes nothing, the
instruction's flags still written. -/
def Obligations.IndirectAddressesUseFsr : Prop :=
  (∀ s : State, (dataAddr 0x00#7 s).toNat = (s.status.getLsbD 7).toNat * 256 + s.fsr.toNat) ∧
    (∀ (a : DataAddr) (s : State), a.toNat % 128 = 0 →
      dataRead a s = (0x00#8, s) ∧ ∀ (v : Byte) (aff : FlagSet), dataWrite a v aff s = s) ∧
    (∀ s : State, s.fsr.toNat % 128 = 0 →
      ∃ t, exec (.clrf 0x00#7) s = .next t ∧ t.flagZ = true ∧ (∀ c, ramRead t.ram c = ramRead s.ram c) ∧
        t.fsr = s.fsr ∧ t.outputs = s.outputs)

/-- R46: what a read of each data address returns; `k` is the bank. Only a device-class read changes anything: it takes
a free value. The classes in which the other statements speak are those of R46's addresses. -/
def Obligations.DataReadsByAddressClass : Prop :=
  (∀ (k : BitVec 2) (s : State),
    dataRead (k ++ 0x00#7) s = (0x00#8, s) ∧
      dataRead (k ++ 0x02#7) s = (BitVec.ofNat 8 ((s.pc.toNat + 1) % 8192), s) ∧
      dataRead (k ++ 0x03#7) s = (s.status, s) ∧
      dataRead (k ++ 0x04#7) s = (s.fsr, s) ∧
      dataRead (k ++ 0x0A#7) s = (BitVec.ofNat 8 s.pclath.toNat, s) ∧
      dataRead (k ++ 0x0B#7) s = (s.intcon, s)) ∧
    (∀ (a : DataAddr) (c : Nat) (s : State), ramCell s.cfg.ramMap a = some c → dataRead a s = (ramRead s.ram c, s)) ∧
    (∀ (a : DataAddr) (s : State), DeviceAddr a s →
      dataRead a s = (Config.freeByte s.draws, { s with draws := s.draws + 1 })) ∧
    (∀ (a : DataAddr) (s : State),
      (s.classOf a = .indf ↔ a.extractLsb' 0 7 = 0x00#7) ∧ (s.classOf a = .pcl ↔ a.extractLsb' 0 7 = 0x02#7) ∧
        (s.classOf a = .status ↔ a.extractLsb' 0 7 = 0x03#7) ∧ (s.classOf a = .fsr ↔ a.extractLsb' 0 7 = 0x04#7) ∧
        (s.classOf a = .pclath ↔ a.extractLsb' 0 7 = 0x0A#7) ∧ (s.classOf a = .intcon ↔ a.extractLsb' 0 7 = 0x0B#7) ∧
        (∀ c, s.classOf a = .ram c ↔ ramCell s.cfg.ramMap a = some c) ∧
        ((s.classOf a).isDevice = true ↔ DeviceAddr a s))

/-- R48: the RAM map of both variants; the sixteen registers 0x70 to 0x7F are the same in all four banks of the
PIC16F876/877. -/
def Obligations.RamMapOfBothVariants : Prop :=
  (∀ a : DataAddr, ramCell .pic876 a =
    if 0x020 ≤ a.toNat ∧ a.toNat ≤ 0x07F ∨ 0x0A0 ≤ a.toNat ∧ a.toNat ≤ 0x0EF ∨ 0x110 ≤ a.toNat ∧ a.toNat ≤ 0x16F ∨
      0x190 ≤ a.toNat ∧ a.toNat ≤ 0x1EF then some a.toNat
    else if 0x70 ≤ a.toNat % 128 then some (a.toNat % 128) else none) ∧
    (∀ a : DataAddr, ramCell .pic873 a = if 0x20 ≤ a.toNat % 128 then some (a.toNat % 256) else none) ∧
    (∀ (k : BitVec 2) (f : FileNo), 0x70 ≤ f.toNat → ramCell .pic876 (k ++ f) = some f.toNat)

/-- R28: a general purpose register returns the last value written, through every address of its physical cell; a write
leaves every other cell and all other state alone, and a read changes nothing. -/
def Obligations.RamReturnsTheLastValueWritten : Prop :=
  ∀ (a b : DataAddr) (c d : Nat) (v : Byte) (aff : FlagSet) (s : State),
    ramCell s.cfg.ramMap a = some c → ramCell s.cfg.ramMap b = some d →
      let t := dataWrite a v aff s
      (dataRead b t).1 = (if d = c then v else (dataRead b s).1) ∧ (dataRead b t).2 = t ∧ t = { s with ram := t.ram }

/-- R20: a file write of `v` to STATUS, and then the instruction's own flags: IRP, RP1, RP0 from `v`; TO, PD unchanged;
Z, DC, C from `v` only when the instruction affects no flag. `CLRF STATUS` gives `000u u1uu`. -/
def Obligations.FileWritesToStatus : Prop :=
  (∀ (k : BitVec 2) (v : Byte) (aff : FlagSet) (r : AluResult) (s : State),
    let t := affectFlags aff r (dataWrite (k ++ 0x03#7) v aff s)
    t.status.extractLsb' 5 3 = v.extractLsb' 5 3 ∧ t.flagTO = s.flagTO ∧ t.flagPD = s.flagPD ∧
      t.flagZ = (if aff.z then r.z else if aff = ⟨false, false, false⟩ then v.getLsbD 2 else s.flagZ) ∧
      t.flagDC = (if aff.dc then r.dc else if aff = ⟨false, false, false⟩ then v.getLsbD 1 else s.flagDC) ∧
      t.flagC = (if aff.c then r.c else if aff = ⟨false, false, false⟩ then v.getLsbD 0 else s.flagC)) ∧
    (∀ s : State, ∃ t, exec (.clrf 0x03#7) s = .next t ∧ t.status = (s.status &&& 0x1B#8) ||| 0x04#8)

/-- R15: `Push` and `Pop` with STACK_WRAP = fault, and the circular alternative, on which CALL and the returns run too:
the ninth push overwrites the oldest entry, a pop of the empty stack answers a stale one. Which stale one, and where it
goes, is the model's reading (log 7). -/
def Obligations.StackPushesAndPops : Prop :=
  (∀ (v : CodeAddr) (s : State), s.stack.length < 8 →
    ∃ t, push v s = some t ∧ t.stack = v :: s.stack ∧ pop t = some (v, { s with
      stale := s.stale.dropLast ++ [v] })) ∧
    (∀ (v : CodeAddr) (s : State), 8 ≤ s.stack.length → s.cfg.stackWrap = .fault → push v s = none) ∧
    (∀ s : State, s.stack = [] → s.cfg.stackWrap = .fault → pop s = none) ∧
    (∀ (v : CodeAddr) (s : State), s.stack.length = 8 → s.cfg.stackWrap = .circular →
      ∃ t, push v s = some t ∧ t.stack = v :: s.stack.take 7) ∧
    (∀ s : State, s.Inv → s.stack = [] → s.cfg.stackWrap = .circular →
      ∃ v t, pop s = some (v, t) ∧ s.stale.head? = some v ∧ t.stack = []) ∧
    (∀ (k : BitVec 11) (s : State), s.stack.length = 8 → s.cfg.stackWrap = .circular →
      ∃ t, exec (.call k) s = .next t ∧ t.pc.toNat = s.pclath.toNat / 8 * 2048 + k.toNat ∧
        t.stack = (s.pc + 1) :: s.stack.take 7 ∧ t.w = s.w ∧ t.status = s.status ∧ t.intcon = s.intcon ∧ SameData s t) ∧
    (∀ (k : Byte) (a : CodeAddr) (rest : List CodeAddr) (s : State), s.stack = [] → s.cfg.stackWrap = .circular →
      s.stale = a :: rest →
        (∃ t, exec .retn s = .next t ∧ t.pc = a ∧ t.stack = [] ∧ t.w = s.w ∧ t.status = s.status ∧
          t.intcon = s.intcon ∧ SameData s t) ∧
        (∃ t, exec (.retlw k) s = .next t ∧ t.pc = a ∧ t.stack = [] ∧ t.w = k ∧ t.status = s.status ∧
          t.intcon = s.intcon ∧ SameData s t) ∧
        (∃ t, exec .retfie s = .next t ∧ t.pc = a ∧ t.stack = [] ∧ t.intcon = s.intcon ||| 0x80#8 ∧ t.w = s.w ∧
          t.status = s.status ∧ SameData s t))

/-- R22: PCL as a file register, however `f` reaches it: MOVF reads the low byte of pc + 1, MOVWF jumps to
`PCLATH[4:0] : W` with PCLATH unchanged, INCFSZ and DECFSZ with d = 1 are refused. -/
def Obligations.PclReadsAndWrites : Prop :=
  ∀ (f : FileNo) (s : State), s.classOf (dataAddr f s) = .pcl →
    (∃ t, exec (.movf f .w) s = .next t ∧ t.w.toNat = (s.pc.toNat + 1) % 256 ∧ t.pc = s.pc + 1) ∧
      (∃ t, exec (.movwf f) s = .next t ∧ t.pc.toNat = pclTarget s s.w ∧ t.pclath = s.pclath) ∧
      exec (.incfsz f .f) s = .refused (.skipWritesPcl s.pc) ∧
      exec (.decfsz f .f) s = .refused (.skipWritesPcl s.pc)

/-- R27, R194: a read-modify-write of a device-class register (a port) writes back what the read found, a free value,
not the data latch: `latch <- op(pins)`. The free value and the latch as the newest output event are the model's forms
(logs 5, 18). R47, R26: a write there records the output event; TMR0 is address 0x01 of banks 0 and 2, where the write also
clears the prescaler exactly when bit 3 of OPTION_REG, address 0x01 of banks 1 and 3, is 0. That the two fields keep the
byte written is the model's deduction (logs 16, 17). -/
def Obligations.PortsAreModifiedFromTheirPins : Prop :=
  (∀ (f : FileNo) (b : Nat) (s : State), DeviceAddr (dataAddr f s) s → b ≤ 7 →
    (∃ t, exec (.movf f .f) s = .next t ∧ t.latch (dataAddr f s) = some (Config.freeByte s.draws)) ∧
      (∃ t, exec (.bsf f b) s = .next t ∧
        t.latch (dataAddr f s) = some (Config.freeByte s.draws ||| BitVec.ofNat 8 (2 ^ b))) ∧
      (∃ t, exec (.bcf f b) s = .next t ∧
        t.latch (dataAddr f s) = some (Config.freeByte s.draws &&& ~~~BitVec.ofNat 8 (2 ^ b)))) ∧
    (∀ (a : DataAddr) (v : Byte) (aff : FlagSet) (s : State), DeviceAddr a s → a.extractLsb' 0 7 ≠ 0x01#7 →
      dataWrite a v aff s = { s with outputs := { addr := a, value := v } :: s.outputs }) ∧
    (∀ (k : BitVec 2) (v : Byte) (aff : FlagSet) (s : State),
      let a : DataAddr := k ++ 0x01#7
      let recorded : State := { s with outputs := { addr := a, value := v } :: s.outputs }
      dataWrite a v aff s =
        if k = 0 ∨ k = 2 then
          { recorded with tmr0 := v, prescaler := if s.optionReg.getLsbD 3 = false then 0 else s.prescaler }
        else { recorded with optionReg := v }) ∧
    (∀ (a : DataAddr) (s : State),
      (s.classOf a = .tmr0 ↔ a = 0x001#9 ∨ a = 0x101#9) ∧ (s.classOf a = .optionReg ↔ a = 0x081#9 ∨ a = 0x181#9))

/-! ### Byte-oriented operations: encoding, result, flags, cycles and frame -/

/-- R102: ADDWF. -/
def Obligations.AddwfAddsWAndFile : Prop :=
  ByteRow 0b000111#6 .addwf ∧
    ∀ (f : FileNo) (d : Dest) (s : State),
      let v := fileValue f s
      Completes (.addwf f d) s (destEffect f d s (BitVec.ofNat 8 (s.w.toNat + v.toNat)) ⟨true, true, true⟩
        (decide (s.w.toNat + v.toNat > 255)) (decide (s.w.toNat % 16 + v.toNat % 16 > 15)))

/-- R117: SUBWF, file minus W. -/
def Obligations.SubwfSubtractsWFromFile : Prop :=
  ByteRow 0b000010#6 .subwf ∧
    ∀ (f : FileNo) (d : Dest) (s : State),
      let v := fileValue f s
      Completes (.subwf f d) s (destEffect f d s (BitVec.ofNat 8 (v.toNat + 256 - s.w.toNat)) ⟨true, true, true⟩
        (decide (s.w.toNat ≤ v.toNat)) (decide (s.w.toNat % 16 ≤ v.toNat % 16)))

/-- R103, R111, R119: ANDWF, IORWF, XORWF. -/
def Obligations.LogicOfWAndFile : Prop :=
  ByteRow 0b000101#6 .andwf ∧ ByteRow 0b000100#6 .iorwf ∧ ByteRow 0b000110#6 .xorwf ∧
    ∀ (f : FileNo) (d : Dest) (s : State),
      let v := fileValue f s
      Completes (.andwf f d) s (destEffect f d s (s.w &&& v) ⟨false, false, true⟩ false false) ∧
        Completes (.iorwf f d) s (destEffect f d s (s.w ||| v) ⟨false, false, true⟩ false false) ∧
        Completes (.xorwf f d) s (destEffect f d s (s.w ^^^ v) ⟨false, false, true⟩ false false)

/-- R106, R112: COMF (0xFF - value) and MOVF (written back with d = 1). -/
def Obligations.ComplementAndMoveOfFile : Prop :=
  ByteRow 0b001001#6 .comf ∧ ByteRow 0b001000#6 .movf ∧
    ∀ (f : FileNo) (d : Dest) (s : State),
      let v := fileValue f s
      Completes (.comf f d) s
          (destEffect f d s (BitVec.ofNat 8 (255 - v.toNat)) ⟨false, false, true⟩ false false) ∧
        Completes (.movf f d) s (destEffect f d s v ⟨false, false, true⟩ false false)

/-- R107, R109: DECF and INCF, modulo 256, C and DC not affected. -/
def Obligations.IncrementAndDecrementOfFile : Prop :=
  ByteRow 0b000011#6 .decf ∧ ByteRow 0b001010#6 .incf ∧
    ∀ (f : FileNo) (d : Dest) (s : State),
      let v := fileValue f s
      Completes (.decf f d) s (destEffect f d s (BitVec.ofNat 8 (v.toNat + 255)) ⟨false, false, true⟩ false false) ∧
        Completes (.incf f d) s (destEffect f d s (BitVec.ofNat 8 (v.toNat + 1)) ⟨false, false, true⟩ false false)

/-- R108, R110: DECFSZ and INCFSZ skip exactly when the result is 0x00, write no flag, and are refused where the operand
is the destination and resolves to PCL (R22). -/
def Obligations.SkippingIncrementAndDecrement : Prop :=
  ByteRow 0b001011#6 .decfsz ∧ ByteRow 0b001111#6 .incfsz ∧
    ∀ (f : FileNo) (d : Dest) (s : State),
      let v := fileValue f s
      let skipping (r : Byte) : Effect :=
        { destEffect f d s r ⟨false, false, false⟩ false false with
          next := if r = 0x00#8 then s.pc + 2 else s.pc + 1
          cycles := if r = 0x00#8 then 2 else 1 }
      if d = .f ∧ s.classOf (dataAddr f s) = .pcl then
        exec (.decfsz f d) s = .refused (.skipWritesPcl s.pc) ∧ exec (.incfsz f d) s = .refused (.skipWritesPcl s.pc)
      else
        Completes (.decfsz f d) s (skipping (BitVec.ofNat 8 (v.toNat + 255))) ∧
          Completes (.incfsz f d) s (skipping (BitVec.ofNat 8 (v.toNat + 1)))

/-- R115, R116: RLF and RRF rotate the nine bits C:f; Z is not affected. "Nine successive RLF restore the register and
C." -/
def Obligations.RotatesThroughCarry : Prop :=
  ByteRow 0b001101#6 .rlf ∧ ByteRow 0b001100#6 .rrf ∧
    (∀ (f : FileNo) (d : Dest) (s : State),
      let v := fileValue f s
      Completes (.rlf f d) s
          (destEffect f d s (BitVec.ofNat 8 (v.toNat * 2 + s.flagC.toNat)) ⟨true, false, false⟩ (v.getLsbD 7) false) ∧
        Completes (.rrf f d) s
          (destEffect f d s (BitVec.ofNat 8 (v.toNat / 2 + s.flagC.toNat * 128)) ⟨true, false, false⟩ (v.getLsbD 0)
            false)) ∧
    ∀ (f : FileNo) (c : Nat) (s : State), s.classOf (dataAddr f s) = .ram c →
      ∃ t, rlfTimes f 9 s = .next t ∧ ramRead t.ram c = ramRead s.ram c ∧ t.flagC = s.flagC ∧ t.pc = s.pc + 9

/-- R118: SWAPF exchanges the nibbles and affects no flag. -/
def Obligations.SwapfExchangesNibbles : Prop :=
  ByteRow 0b001110#6 .swapf ∧
    ∀ (f : FileNo) (d : Dest) (s : State),
      let v := fileValue f s
      Completes (.swapf f d) s
        (destEffect f d s (BitVec.ofNat 8 (v.toNat % 16 * 16 + v.toNat / 16)) ⟨false, false, false⟩ false false)

/-- R104, R113: CLRF and MOVWF write the register without reading it. -/
def Obligations.ClearAndStoreToFile : Prop :=
  FileRow 0b0000011#7 .clrf ∧ FileRow 0b0000001#7 .movwf ∧
    ∀ (f : FileNo) (s : State),
      Completes (.clrf f) s (storeEffect f s 0x00#8 ⟨false, false, true⟩) ∧
        Completes (.movwf f) s (storeEffect f s s.w ⟨false, false, false⟩)

/-- R105, R114: CLRW (whatever its seven don't-care bits) and NOP (its four words). -/
def Obligations.ClearWAndNoOperation : Prop :=
  (∀ x : BitVec 7, decode (0b0000010#7 ++ x) = .ok .clrw) ∧
    (∀ x : BitVec 2, decode (0b0000000#7 ++ x ++ 0b00000#5) = .ok .nop) ∧
    ∀ s : State,
      Completes .clrw s (wEffect s 0x00#8 ⟨false, false, true⟩ false false) ∧
        Completes .nop s { next := s.pc + 1 }

/-! ### Bit-oriented operations -/

/-- R131, R132: BCF and BSF change one bit of the whole register and write it back. -/
def Obligations.BitClearAndBitSet : Prop :=
  BitRow 0b0100#4 .bcf ∧ BitRow 0b0101#4 .bsf ∧
    ∀ (f : FileNo) (b : Nat) (s : State), b ≤ 7 →
      let v := fileValue f s
      Completes (.bcf f b) s
          (destEffect f .f s (v &&& ~~~BitVec.ofNat 8 (2 ^ b)) ⟨false, false, false⟩ false false) ∧
        Completes (.bsf f b) s (destEffect f .f s (v ||| BitVec.ofNat 8 (2 ^ b)) ⟨false, false, false⟩ false false)

/-- R133, R134: BTFSC skips when the bit is 0, BTFSS when it is 1, bit 7 included (R73); nothing is written. -/
def Obligations.BitTestsSkip : Prop :=
  BitRow 0b0110#4 .btfsc ∧ BitRow 0b0111#4 .btfss ∧
    ∀ (f : FileNo) (b : Nat) (s : State), b ≤ 7 →
      let bit := (fileValue f s).toNat / 2 ^ b % 2
      let tested (skip : Bool) : Effect :=
        { addr := dataAddr f s, reads := true, next := if skip then s.pc + 2 else s.pc + 1,
          cycles := if skip then 2 else 1 }
      Completes (.btfsc f b) s (tested (decide (bit = 0))) ∧ Completes (.btfss f b) s (tested (decide (bit = 1)))

/-! ### Literal and control operations -/

/-- R140, R151: ADDLW (W + k) and SUBLW (k - W), whatever their don't-care bit. -/
def Obligations.LiteralAdditionAndSubtraction : Prop :=
  LiteralRow 0b111110#6 .addlw ∧ LiteralRow 0b111111#6 .addlw ∧ LiteralRow 0b111100#6 .sublw ∧
    LiteralRow 0b111101#6 .sublw ∧
    ∀ (k : Byte) (s : State),
      Completes (.addlw k) s (wEffect s (BitVec.ofNat 8 (s.w.toNat + k.toNat)) ⟨true, true, true⟩
          (decide (s.w.toNat + k.toNat > 255)) (decide (s.w.toNat % 16 + k.toNat % 16 > 15))) ∧
        Completes (.sublw k) s (wEffect s (BitVec.ofNat 8 (k.toNat + 256 - s.w.toNat)) ⟨true, true, true⟩
          (decide (s.w.toNat ≤ k.toNat)) (decide (s.w.toNat % 16 ≤ k.toNat % 16)))

/-- R141, R145, R152, R146: ANDLW, IORLW, XORLW and MOVLW (whatever its two don't-care bits). -/
def Obligations.LiteralLogicAndMove : Prop :=
  LiteralRow 0b111001#6 .andlw ∧ LiteralRow 0b111000#6 .iorlw ∧ LiteralRow 0b111010#6 .xorlw ∧
    (∀ x : BitVec 2, LiteralRow (0b1100#4 ++ x) .movlw) ∧
    ∀ (k : Byte) (s : State),
      Completes (.andlw k) s (wEffect s (s.w &&& k) ⟨false, false, true⟩ false false) ∧
        Completes (.iorlw k) s (wEffect s (s.w ||| k) ⟨false, false, true⟩ false false) ∧
        Completes (.xorlw k) s (wEffect s (s.w ^^^ k) ⟨false, false, true⟩ false false) ∧
        Completes (.movlw k) s (wEffect s k ⟨false, false, false⟩ false false)

/-- R142: CALL pushes pc + 1 and jumps to `PCLATH[4:3] : k`; a full stack with STACK_WRAP = fault is a StackOverflow. -/
def Obligations.CallPushesAndJumps : Prop :=
  JumpRow 0b100#3 .call ∧
    (∀ (k : BitVec 11) (s : State), s.stack.length < 8 →
      ∃ t, exec (.call k) s = .next t ∧ t.pc.toNat = s.pclath.toNat / 8 * 2048 + k.toNat ∧
        t.stack = (s.pc + 1) :: s.stack ∧ t.w = s.w ∧ t.status = s.status ∧ t.intcon = s.intcon ∧ t.mode = s.mode ∧
        t.wdt = s.wdt ∧ t.prescaler = s.prescaler ∧ t.cycles = s.cycles + 2 ∧ SameData s t) ∧
    (∀ (k : BitVec 11) (s : State), 8 ≤ s.stack.length → s.cfg.stackWrap = .fault →
      exec (.call k) s = .fault (.stackOverflow s.pc))

/-- R144: GOTO jumps to `PCLATH[4:3] : k`, absolute, and changes nothing else. -/
def Obligations.GotoJumpsWithinThePclathPage : Prop :=
  JumpRow 0b101#3 .goto ∧
    ∀ (k : BitVec 11) (s : State),
      ∃ t, exec (.goto k) s = .next t ∧ t.pc.toNat = s.pclath.toNat / 8 * 2048 + k.toNat ∧ t.stack = s.stack ∧
        t.stale = s.stale ∧ t.w = s.w ∧ t.status = s.status ∧ t.intcon = s.intcon ∧ t.mode = s.mode ∧ t.wdt = s.wdt ∧
        t.prescaler = s.prescaler ∧ t.cycles = s.cycles + 2 ∧ SameData s t

/-- R148, R149: RETURN and RETLW pop all 13 bits of pc, RETLW loads W; an empty stack with STACK_WRAP = fault is a
StackUnderflow. -/
def Obligations.ReturnsPopTheStack : Prop :=
  decode 0b00000000001000#14 = .ok .retn ∧ (∀ x : BitVec 2, LiteralRow (0b1101#4 ++ x) .retlw) ∧
    (∀ (k : Byte) (a : CodeAddr) (rest : List CodeAddr) (s : State), s.stack = a :: rest →
      (∃ t, exec .retn s = .next t ∧ t.pc = a ∧ t.stack = rest ∧ t.w = s.w ∧ t.status = s.status ∧
        t.intcon = s.intcon ∧ t.mode = s.mode ∧ t.wdt = s.wdt ∧ t.prescaler = s.prescaler ∧ t.cycles = s.cycles + 2 ∧
        SameData s t) ∧
      (∃ t, exec (.retlw k) s = .next t ∧ t.pc = a ∧ t.stack = rest ∧ t.w = k ∧ t.status = s.status ∧
        t.intcon = s.intcon ∧ t.mode = s.mode ∧ t.wdt = s.wdt ∧ t.prescaler = s.prescaler ∧ t.cycles = s.cycles + 2 ∧
        SameData s t)) ∧
    (∀ (k : Byte) (s : State), s.stack = [] → s.cfg.stackWrap = .fault →
      exec .retn s = .fault (.stackUnderflow s.pc) ∧ exec (.retlw k) s = .fault (.stackUnderflow s.pc))

/-- R147: RETFIE pops pc and sets GIE, whatever it was; the other bits of INTCON stay. -/
def Obligations.RetfieReturnsAndEnablesInterrupts : Prop :=
  decode 0b00000000001001#14 = .ok .retfie ∧
    (∀ (a : CodeAddr) (rest : List CodeAddr) (s : State), s.stack = a :: rest →
      ∃ t, exec .retfie s = .next t ∧ t.pc = a ∧ t.stack = rest ∧ t.intcon = s.intcon ||| 0x80#8 ∧ t.w = s.w ∧
        t.status = s.status ∧ t.mode = s.mode ∧ t.wdt = s.wdt ∧ t.prescaler = s.prescaler ∧ t.cycles = s.cycles + 2 ∧
        SameData s t) ∧
    (∀ s : State, s.stack = [] → s.cfg.stackWrap = .fault → exec .retfie s = .fault (.stackUnderflow s.pc))

/-- R143: CLRWDT clears the watchdog and the prescaler and sets TO and PD. -/
def Obligations.ClrwdtClearsTheWatchdog : Prop :=
  decode 0b00000001100100#14 = .ok .clrwdt ∧
    ∀ s : State, ∃ t, exec .clrwdt s = .next t ∧ t.wdt = 0 ∧ t.prescaler = 0 ∧
      t.status = s.status ||| 0x18#8 ∧ t.pc = s.pc + 1 ∧ t.w = s.w ∧ t.stack = s.stack ∧ t.stale = s.stale ∧
      t.intcon = s.intcon ∧ t.mode = s.mode ∧ t.cycles = s.cycles + 1 ∧ SameData s t

/-- R150: SLEEP clears the watchdog and the prescaler, sets TO, clears PD, advances pc and puts the machine to sleep. -/
def Obligations.SleepEntersTheSleepingMode : Prop :=
  decode 0b00000001100011#14 = .ok .sleep ∧
    ∀ s : State, ∃ t, exec .sleep s = .next t ∧ t.wdt = 0 ∧ t.prescaler = 0 ∧
      t.status = (s.status &&& 0xE7#8) ||| 0x10#8 ∧ t.pc = s.pc + 1 ∧ t.mode = .sleeping ∧ t.w = s.w ∧
      t.stack = s.stack ∧ t.stale = s.stale ∧ t.intcon = s.intcon ∧ t.cycles = s.cycles + 1 ∧ SameData s t

/-! ### Whole-machine rules -/

/-- R16: which instructions may change each status flag, besides a file write to STATUS. -/
def Obligations.OnlyTheListedInstructionsChangeFlags : Prop :=
  ∀ (i : Instr) (s t : State), exec i s = .next t →
    (t.flagC ≠ s.flagC → WritesFile i s .status ∨
      ∃ f d k, i = .addwf f d ∨ i = .subwf f d ∨ i = .addlw k ∨ i = .sublw k ∨ i = .rlf f d ∨ i = .rrf f d) ∧
    (t.flagDC ≠ s.flagDC → WritesFile i s .status ∨
      ∃ f d k, i = .addwf f d ∨ i = .subwf f d ∨ i = .addlw k ∨ i = .sublw k) ∧
    (t.flagZ ≠ s.flagZ → WritesFile i s .status ∨
      ∃ f d k, i = .addwf f d ∨ i = .andwf f d ∨ i = .clrf f ∨ i = .clrw ∨ i = .comf f d ∨ i = .decf f d ∨
        i = .incf f d ∨ i = .iorwf f d ∨ i = .movf f d ∨ i = .subwf f d ∨ i = .xorwf f d ∨ i = .addlw k ∨ i = .andlw k ∨
        i = .iorlw k ∨ i = .sublw k ∨ i = .xorlw k) ∧
    (t.flagTO ≠ s.flagTO ∨ t.flagPD ≠ s.flagPD → i = .clrwdt ∨ i = .sleep)

/-- R14: "No instruction changes PCLATH as a side effect; only a file write to its address does." -/
def Obligations.OnlyAFileWriteChangesPclath : Prop :=
  ∀ (i : Instr) (s t : State), exec i s = .next t → t.pclath ≠ s.pclath → WritesFile i s .pclath

/-- R21: GIE is set by RETFIE and written by a file write to INTCON, and "No other instruction touches it"; the other
bits of INTCON change only by that file write. -/
def Obligations.OnlyRetfieAndFileWritesChangeIntcon : Prop :=
  ∀ (i : Instr) (s t : State), exec i s = .next t → t.intcon ≠ s.intcon →
    WritesFile i s .intcon ∨ (i = .retfie ∧ t.intcon = s.intcon ||| 0x80#8)

/-- R10: W is written by CLRW, MOVLW, RETLW, the literal arithmetic and logic instructions, and a byte-oriented
instruction with d = 0; by no other. -/
def Obligations.OnlyTheListedInstructionsChangeW : Prop :=
  ∀ (i : Instr) (s t : State), exec i s = .next t → t.w ≠ s.w →
    i = .clrw ∨ ∃ f k, i = .movlw k ∨ i = .retlw k ∨ i = .addlw k ∨ i = .andlw k ∨ i = .iorlw k ∨ i = .sublw k ∨
      i = .xorlw k ∨ i = .addwf f .w ∨ i = .andwf f .w ∨ i = .comf f .w ∨ i = .decf f .w ∨ i = .decfsz f .w ∨
      i = .incf f .w ∨ i = .incfsz f .w ∨ i = .iorwf f .w ∨ i = .movf f .w ∨ i = .rlf f .w ∨ i = .rrf f .w ∨
      i = .subwf f .w ∨ i = .swapf f .w ∨ i = .xorwf f .w

/-- R15: no instruction but CALL and the three returns changes the stack. -/
def Obligations.OnlyCallsAndReturnsChangeTheStack : Prop :=
  ∀ (i : Instr) (s t : State), exec i s = .next t → t.stack ≠ s.stack →
    (∃ k, i = .call k) ∨ i = .retn ∨ i = .retfie ∨ ∃ k, i = .retlw k

/-- R153: the complete list of ways an instruction changes pc other than by + 1, with the new pc of each; a file write to
PCL loads PCLATH and the byte the instruction writes (R22). -/
def Obligations.WaysThePcChanges : Prop :=
  ∀ (i : Instr) (s t : State), exec i s = .next t → t.pc ≠ s.pc + 1 →
    (∃ k, (i = .goto k ∨ i = .call k) ∧ t.pc.toNat = s.pclath.toNat / 8 * 2048 + k.toNat) ∨
      ((i = .retn ∨ i = .retfie ∨ ∃ k, i = .retlw k) ∧ ∃ u, pop s = some (t.pc, u) ∧ t.stack = u.stack) ∨
      ((∃ f d b, i = .decfsz f d ∨ i = .incfsz f d ∨ i = .btfsc f b ∨ i = .btfss f b) ∧ t.pc = s.pc + 2) ∨
      (WritesFile i s .pcl ∧ ∃ v, fileResult i s = some v ∧ t.pc.toNat = pclTarget s v)

/-- R201: the cycles of every instruction. -/
def Obligations.CyclesOfEveryInstruction : Prop :=
  ∀ (i : Instr) (s t : State), exec i s = .next t →
    t.cycles = s.cycles +
      (match i with
      | .call _ | .goto _ | .retfie | .retlw _ | .retn => 2
      | .decfsz _ _ | .incfsz _ _ | .btfsc _ _ | .btfss _ _ => if t.pc = s.pc + 2 then 2 else 1
      | i => if writeTarget i s = none then 1
        else if (writeTarget i s).map s.classOf = some FileClass.pcl then 2 else 1)

/-- R101, R193: no instruction's effect depends on program memory, so a skipped word "has no effect on any state"
whatever it is. -/
def Obligations.InstructionsDoNotReadProgramMemory : Prop :=
  ∀ (i : Instr) (s : State) (p : List (Nat × InstrWord)),
    exec i { s with prog := p } =
      match exec i s with
      | .next t => .next { t with prog := p }
      | .fault r => .fault r
      | .refused r => .refused r

/-! ### Interrupts, sleep, watchdog, resets -/

/-- R163, R166: when the environment lets an interrupt be taken and the machine runs with GIE = 1 and a request, GIE is
cleared, pc is pushed, control goes to 0x0004 and nothing else changes; otherwise nothing happens. `owed` is the
instruction that a wake-up owes first (R174). The turns, a turn used up in vain and that bit are the model's (logs 9 to
11), and what a full circular stack keeps is its reading (log 7). -/
def Obligations.InterruptEntry : Prop :=
  ∀ (s : State) (periph : Bool) (rest : List Turn), s.turns = .env (.interrupt periph) :: rest →
    let bit (n : Nat) : Bool := s.intcon.getLsbD n
    let request := bit 5 && bit 2 || bit 4 && bit 1 || bit 3 && bit 0 || bit 6 && periph
    let owed := s.holdoff
    if s.mode = .running ∧ bit 7 = true ∧ request = true ∧ owed = false then
      (s.stack.length < 8 →
        step s = .next { s with
          turns := rest, intcon := s.intcon &&& 0x7F#8, pc := 0x0004#13, stack := s.pc :: s.stack,
          stale := s.stale.dropLast }) ∧
      (8 ≤ s.stack.length → s.cfg.stackWrap = .fault → step s = .fault (.stackOverflow s.pc)) ∧
      (s.stack.length = 8 → s.cfg.stackWrap = .circular →
        step s = .next { s with
          turns := rest, intcon := s.intcon &&& 0x7F#8, pc := 0x0004#13, stack := s.pc :: s.stack.take 7 })
    else step s = .next { s with turns := rest }

/-- R197: a CALL followed by a return comes back to the next instruction with the stack as it was and PCLATH never
changed. R166: "Entry is mirrored exactly by RETFIE": after an interrupt entry a RETFIE restores pc, the stack and
GIE. -/
def Obligations.ReturnsUndoCallsAndInterruptEntries : Prop :=
  (∀ (k : BitVec 11) (s : State), s.stack.length < 8 →
    ∃ t u, exec (.call k) s = .next t ∧ exec .retn t = .next u ∧ u.pc = s.pc + 1 ∧ u.stack = s.stack ∧
      t.pclath = s.pclath ∧ u.pclath = s.pclath ∧ u.w = s.w ∧ u.status = s.status ∧ u.ram = s.ram) ∧
    ∀ s : State, s.stack.length < 8 → s.gie = true →
      ∃ t u, takeInterrupt s = .next t ∧ t.gie = false ∧ exec .retfie t = .next u ∧ u.pc = s.pc ∧ u.stack = s.stack ∧
        u.intcon = s.intcon ∧ u.w = s.w ∧ u.status = s.status ∧ u.pclath = s.pclath ∧ u.fsr = s.fsr ∧ u.ram = s.ram

/-- R25: in the sleeping mode no instruction is fetched or executed and all state keeps its value. That the core's turn
is an idle step, and not the absence of one, is the model's choice (log 12). R178: with no move of the environment to come
a run ends asleep, exactly when neither an interrupt request nor the enabled watchdog can wake the machine, or at END_PC.
A machine at rest stays so, no reset is to come, and only flags of INTCON may still change. That a scheduled raise which
makes a request counts as a wake-up to come is the model's reading (log 12). -/
def Obligations.SleepingCoreKeepsItsState : Prop :=
  (∀ s : State, s.mode = .sleeping →
    (s.turns = [] → step s = .next s) ∧
      ∀ rest, s.turns = .core :: rest → step s = .next { s with turns := rest }) ∧
    (∀ (endPc : CodeAddr) (periph : Bool) (s : State), (∀ x ∈ s.turns, x = .core) →
      (endOfRun endPc periph s = true ↔
        (s.mode = .sleeping ∧ irq periph s = false ∧ s.cfg.wdtEnabled = false) ∨ s.pc = endPc)) ∧
    (∀ (periph : Bool) (s : State), atRest periph s = true →
      (∀ x ∈ s.turns, x ≠ .env .mclr ∧ x ≠ .env .brownOut ∧ x ≠ .env .powerOn) ∧
        ∃ t, step s = .next t ∧ atRest periph t = true ∧ t = { s with turns := s.turns.tail, intcon := t.intcon })

/-- R174: an interrupt request wakes the sleeping machine whatever GIE is: TO = 1, PD = 0, pc and all other state kept.
With no request, and in the running mode, nothing happens. With GIE = 1 the instruction at pc comes before the vector: an
interrupt is not taken until one instruction has executed. The turns, a turn used up in vain, the bit that remembers the
owed instruction and the request asked for are the model's (logs 9, 10, 11, 13). -/
def Obligations.InterruptRequestWakes : Prop :=
  (∀ (i : Instr) (s t : State), exec i s = .next t → t.holdoff = false) ∧
  ∀ (s : State) (periph : Bool) (rest : List Turn), s.turns = .env (.wake periph) :: rest →
    if s.mode = .sleeping ∧ irq periph s = true then
      let t : State :=
        { s with
          turns := rest, mode := .running, status := (s.status &&& 0xE7#8) ||| 0x10#8, holdoff := s.intcon.getLsbD 7 }
      step s = .next t ∧
        (s.intcon.getLsbD 7 = true → ∀ q more, rest = .env (.interrupt q) :: more →
          step t = .next { t with turns := more })
    else step s = .next { s with turns := rest }

/-- R172, R174: a watchdog time-out happens only with WDT_ENABLED; in the running mode, after at least one instruction
since the last clear, it resets the machine (STATUS `0000 1uuu`); in SLEEP it wakes it (STATUS `uuu0 0uuu`, watchdog and prescaler
cleared, pc and all other state kept).
The turns, a turn used up in vain, the bit that remembers the instruction, and that SLEEP needs none are the model's (logs
9, 10, 14); so is the empty stack after the reset, where R31's table says unspecified (U19; log 8). -/
def Obligations.WatchdogTimeout : Prop :=
  (∀ (i : Instr) (s t : State), exec i s = .next t → (t.wdtArmed = false ↔ i = .clrwdt ∨ i = .sleep)) ∧
  ∀ (s : State) (rest : List Turn), s.turns = .env .wdtTimeout :: rest →
    (s.cfg.wdtEnabled = false → step s = .next { s with turns := rest }) ∧
      (s.cfg.wdtEnabled = true → s.mode = .running → s.wdtArmed = true →
        ∃ t, step s = .next t ∧ t.pc = 0x0000#13 ∧ t.mode = .running ∧ t.status = (s.status &&& 0x07#8) ||| 0x08#8 ∧
          t.pclath = 0#5 ∧ t.intcon = s.intcon &&& 0x01#8 ∧ t.optionReg = 0xFF#8 ∧ t.w = s.w ∧ t.fsr = s.fsr ∧
          t.tmr0 = s.tmr0 ∧ t.ram = s.ram ∧ t.wdt = 0 ∧ t.prescaler = 0 ∧ t.stack = []) ∧
      (s.cfg.wdtEnabled = true → s.mode = .running → s.wdtArmed = false → step s = .next { s with turns := rest }) ∧
      (s.cfg.wdtEnabled = true → s.mode = .sleeping →
        step s = .next { s with
          turns := rest, mode := .running, status := s.status &&& 0xE7#8, wdt := 0, prescaler := 0, wdtArmed := false })

/-- R31, R190: an MCLR reset, by mode: STATUS `000u uuuu` in normal operation, `0001 0uuu` in SLEEP; a brown-out acts as
the former. That it does so in SLEEP too, and the turns, are the model's (logs 9, 30); so is the empty stack, where R31's table says
unspecified (U19; log 8). -/
def Obligations.ExternalResets : Prop :=
  ∀ (s : State) (rest : List Turn) (move : Move), move = .mclr ∨ move = .brownOut → s.turns = .env move :: rest →
    ∃ t, step s = .next t ∧ t.pc = 0x0000#13 ∧ t.mode = .running ∧ t.pclath = 0#5 ∧ t.intcon = s.intcon &&& 0x01#8 ∧
      t.optionReg = 0xFF#8 ∧ t.w = s.w ∧ t.fsr = s.fsr ∧ t.tmr0 = s.tmr0 ∧ t.ram = s.ram ∧ t.wdt = 0 ∧ t.prescaler = 0 ∧
      t.stack = [] ∧ t.gie = false ∧
      t.status = (if move = .mclr ∧ s.mode = .sleeping then (s.status &&& 0x07#8) ||| 0x10#8 else s.status &&& 0x1F#8)

/-- R56: the environment, a reset apart, never writes W, PCLATH, FSR, the RAM or program memory; setting a flag changes
that flag's bit of INTCON and nothing else, whatever the enables and the mode are (R162; INT and RB change are the wake-up
sources of R174). That T0IF is not raised in SLEEP, where TMR0 stands still, is the model's deduction (log 13), and the
turns are the model's (log 9). -/
def Obligations.EnvironmentLeavesTheProgramState : Prop :=
  (∀ (move : Move) (s t : State), move ≠ .powerOn → move ≠ .mclr → move ≠ .brownOut →
    (move = .wdtTimeout → s.mode = .sleeping) → envMove move s = .next t →
      t.w = s.w ∧ t.pclath = s.pclath ∧ t.fsr = s.fsr ∧ t.ram = s.ram ∧ t.prog = s.prog ∧
        t.status.extractLsb' 5 3 = s.status.extractLsb' 5 3 ∧ t.flagZ = s.flagZ ∧ t.flagDC = s.flagDC ∧
        t.flagC = s.flagC) ∧
    (∀ s : State,
      envMove (.raise .intf) s = .next { s with intcon := s.intcon ||| 0x02#8 } ∧
        envMove (.raise .rbif) s = .next { s with intcon := s.intcon ||| 0x01#8 } ∧
        envMove (.raise .t0if) s =
          .next (if s.mode = .sleeping then s else { s with intcon := s.intcon ||| 0x04#8 })) ∧
    (∀ (s : State) (move : Move) (rest : List Turn), s.turns = .env move :: rest →
      step s = envMove move { s with turns := rest })

/-- R190, and the power-on column of R31: a power-on reset during a run leaves what the column gives. The state after it is
State.reset's, so the bits that the column leaves unknown are the model's there (logs 1 to 4); that the program, the
parameters, the schedule and the records of the run stay, and the turns, are the model's too (logs 9, 30, 37). -/
def Obligations.PowerOnResetDuringARun : Prop :=
  ∀ (s : State) (rest : List Turn), s.turns = .env .powerOn :: rest →
    ∃ t, step s = .next t ∧ t.pc = 0x0000#13 ∧ t.mode = .running ∧ t.status.extractLsb' 3 5 = 0b00011#5 ∧
      t.intcon.extractLsb' 1 7 = 0b0000000#7 ∧ t.pclath = 0b00000#5 ∧ t.optionReg = 0xFF#8 ∧ t.stack = [] ∧ t.wdt = 0 ∧
      t.prescaler = 0 ∧
      t = { State.reset with
        prog := s.prog, cfg := s.cfg, turns := rest, draws := s.draws, outputs := s.outputs, cycles := s.cycles }
end

