-- ==== Sys2Proof/Laws/Assoc.lean ====
section
/-! SUPPORT. The laws of sparse storage: a read after a write, and that every memory operation keeps the canonical form. -/

namespace Sys2Proof.Machine

variable {α : Type}

theorem cellsInsert_mem {m : List (Nat × α)} {a : Nat} {v : α} {x : Nat × α} (h : x ∈ cellsInsert m a v) :
    x = (a, v) ∨ x ∈ m := by
  induction m with
  | nil => simpa [cellsInsert] using h
  | cons y rest ih =>
    obtain ⟨b, y⟩ := y
    simp only [cellsInsert] at h
    split at h
    · simpa using h
    · split at h
      · simp only [List.mem_cons] at h ⊢
        tauto
      · simp only [List.mem_cons] at h ⊢
        rcases h with h | h
        · exact .inr (.inl h)
        · rcases ih h with h | h
          · exact .inl h
          · exact .inr (.inr h)

theorem cellsErase_mem {m : List (Nat × α)} {a : Nat} {x : Nat × α} (h : x ∈ cellsErase m a) : x ∈ m := by
  induction m with
  | nil => simp [cellsErase] at h
  | cons y rest ih =>
    obtain ⟨b, y⟩ := y
    simp only [cellsErase] at h
    split at h
    · exact List.mem_cons_of_mem _ (ih h)
    · rcases List.mem_cons.mp h with h | h
      · exact h ▸ List.mem_cons_self
      · exact List.mem_cons_of_mem _ (ih h)

theorem cellsInsert_sorted {m : List (Nat × α)} (a : Nat) (v : α) (h : cellsSorted m) :
    cellsSorted (cellsInsert m a v) := by
  induction m with
  | nil => simp [cellsInsert]
  | cons y rest ih =>
    obtain ⟨b, y⟩ := y
    obtain ⟨hb, hrest⟩ := List.pairwise_cons.mp h
    simp only [cellsInsert]
    split
    · rename_i hab
      refine List.pairwise_cons.mpr ⟨fun z hz => ?_, h⟩
      rcases List.mem_cons.mp hz with hz | hz
      · simpa [hz] using hab
      · exact lt_trans hab (hb z hz)
    · split
      · rename_i hab
        exact List.pairwise_cons.mpr ⟨fun z hz => hab ▸ hb z hz, hrest⟩
      · rename_i h1 h2
        refine List.pairwise_cons.mpr ⟨fun z hz => ?_, ih hrest⟩
        rcases cellsInsert_mem hz with hz | hz
        · simp only [hz]
          omega
        · exact hb z hz

theorem cellsErase_sorted {m : List (Nat × α)} (a : Nat) (h : cellsSorted m) : cellsSorted (cellsErase m a) := by
  induction m with
  | nil => simp [cellsErase]
  | cons y rest ih =>
    obtain ⟨b, y⟩ := y
    obtain ⟨hb, hrest⟩ := List.pairwise_cons.mp h
    simp only [cellsErase]
    split
    · exact ih hrest
    · exact List.pairwise_cons.mpr ⟨fun z hz => hb z (cellsErase_mem hz), ih hrest⟩

@[simp] theorem cellsLookup_insert_same (m : List (Nat × α)) (a : Nat) (v : α) :
    cellsLookup (cellsInsert m a v) a = some v := by
  induction m with
  | nil => simp [cellsInsert, cellsLookup]
  | cons y rest ih =>
    obtain ⟨b, y⟩ := y
    simp only [cellsInsert]
    split
    · simp [cellsLookup]
    · split
      · simp [cellsLookup]
      · rename_i h1 h2
        simp [cellsLookup, h2, ih]

theorem cellsLookup_insert_other (m : List (Nat × α)) {a c : Nat} (v : α) (h : c ≠ a) :
    cellsLookup (cellsInsert m a v) c = cellsLookup m c := by
  induction m with
  | nil => simp [cellsInsert, cellsLookup, h]
  | cons y rest ih =>
    obtain ⟨b, y⟩ := y
    simp only [cellsInsert]
    split
    · simp [cellsLookup, h]
    · split
      · rename_i h1 h2
        subst h2
        simp [cellsLookup, h]
      · simp only [cellsLookup, ih]

theorem cellsLookup_erase_other (m : List (Nat × α)) {a c : Nat} (h : c ≠ a) :
    cellsLookup (cellsErase m a) c = cellsLookup m c := by
  induction m with
  | nil => rfl
  | cons y rest ih =>
    obtain ⟨b, y⟩ := y
    simp only [cellsErase]
    split
    · rename_i hab
      subst hab
      simp [cellsLookup, h, ih]
    · simp only [cellsLookup, ih]

@[simp] theorem cellsLookup_erase_same (m : List (Nat × α)) (a : Nat) : cellsLookup (cellsErase m a) a = none := by
  induction m with
  | nil => rfl
  | cons y rest ih =>
    obtain ⟨b, y⟩ := y
    simp only [cellsErase]
    split
    · exact ih
    · rename_i hab
      simp [cellsLookup, hab, ih]

/-! ### RAM -/

@[simp] theorem ramRead_write_same (m : List Host.Cell) (c : Nat) (v : Byte) : ramRead (ramWrite m c v) c = v := by
  unfold ramRead ramWrite
  split
  · rename_i hv
    simp [hv]
  · simp

theorem ramRead_write_other (m : List Host.Cell) {c x : Nat} (v : Byte) (h : x ≠ c) :
    ramRead (ramWrite m c v) x = ramRead m x := by
  unfold ramRead ramWrite
  split
  · rw [cellsLookup_erase_other m h]
  · rw [cellsLookup_insert_other m v h]

theorem ramWrite_mem {m : List Host.Cell} {c : Nat} {v : Byte} {x : Host.Cell} (h : x ∈ ramWrite m c v) :
    x = (c, v) ∨ x ∈ m := by
  unfold ramWrite at h
  split at h
  · exact .inr (cellsErase_mem h)
  · exact cellsInsert_mem h

/-- A write keeps the canonical form of the RAM. -/
theorem ramWrite_wf {m : List Host.Cell} (c : Nat) (v : Byte) (h : Memory.wf m) : Memory.wf (ramWrite m c v) := by
  unfold ramWrite
  split
  · exact ⟨cellsErase_sorted c h.1, fun x hx => h.2 x (cellsErase_mem hx)⟩
  · rename_i hv
    refine ⟨cellsInsert_sorted c v h.1, fun x hx => ?_⟩
    rcases cellsInsert_mem hx with hx | hx
    · simpa [hx] using hv
    · exact h.2 x hx

/-! ### Program memory -/

/-- A load keeps the canonical form of the program. -/
theorem progLoad_wf {p : List (Nat × InstrWord)} (a : CodeAddr) (word : InstrWord) (h : progWf p) :
    progWf (progLoad p a word) := by
  refine ⟨cellsInsert_sorted _ _ h.1, fun x hx => ?_⟩
  rcases cellsInsert_mem hx with hx | hx
  · simpa [hx] using a.isLt
  · exact h.2 x hx

@[simp] theorem progRead_load_same (p : List (Nat × InstrWord)) (a : CodeAddr) (word : InstrWord) :
    progRead (progLoad p a word) a = some word := by simp [progRead, progLoad]

/-- The memory that State.reset holds is canonical. -/
theorem reset_ram_wf : Memory.wf State.reset.ram := by decide

end Sys2Proof.Machine
end

