-- ==== Sys2Proof/Laws/State.lean ====
section
/-! SUPPORT. One lemma per field per update of the state, so that no proof unfolds a record update. -/

namespace Sys2Proof.Machine

/-! ### State.setW -/

@[simp] theorem State.setW_w (s : State) (v : Byte) : (s.setW v).w = v := rfl
@[simp] theorem State.setW_pc (s : State) (v : Byte) : (s.setW v).pc = s.pc := rfl
@[simp] theorem State.setW_stack (s : State) (v : Byte) : (s.setW v).stack = s.stack := rfl
@[simp] theorem State.setW_stale (s : State) (v : Byte) : (s.setW v).stale = s.stale := rfl
@[simp] theorem State.setW_status (s : State) (v : Byte) : (s.setW v).status = s.status := rfl
@[simp] theorem State.setW_pclath (s : State) (v : Byte) : (s.setW v).pclath = s.pclath := rfl
@[simp] theorem State.setW_fsr (s : State) (v : Byte) : (s.setW v).fsr = s.fsr := rfl
@[simp] theorem State.setW_intcon (s : State) (v : Byte) : (s.setW v).intcon = s.intcon := rfl
@[simp] theorem State.setW_optionReg (s : State) (v : Byte) : (s.setW v).optionReg = s.optionReg := rfl
@[simp] theorem State.setW_tmr0 (s : State) (v : Byte) : (s.setW v).tmr0 = s.tmr0 := rfl
@[simp] theorem State.setW_ram (s : State) (v : Byte) : (s.setW v).ram = s.ram := rfl
@[simp] theorem State.setW_prog (s : State) (v : Byte) : (s.setW v).prog = s.prog := rfl
@[simp] theorem State.setW_outputs (s : State) (v : Byte) : (s.setW v).outputs = s.outputs := rfl
@[simp] theorem State.setW_wdt (s : State) (v : Byte) : (s.setW v).wdt = s.wdt := rfl
@[simp] theorem State.setW_prescaler (s : State) (v : Byte) : (s.setW v).prescaler = s.prescaler := rfl
@[simp] theorem State.setW_wdtArmed (s : State) (v : Byte) : (s.setW v).wdtArmed = s.wdtArmed := rfl
@[simp] theorem State.setW_holdoff (s : State) (v : Byte) : (s.setW v).holdoff = s.holdoff := rfl
@[simp] theorem State.setW_mode (s : State) (v : Byte) : (s.setW v).mode = s.mode := rfl
@[simp] theorem State.setW_cfg (s : State) (v : Byte) : (s.setW v).cfg = s.cfg := rfl
@[simp] theorem State.setW_turns (s : State) (v : Byte) : (s.setW v).turns = s.turns := rfl
@[simp] theorem State.setW_draws (s : State) (v : Byte) : (s.setW v).draws = s.draws := rfl
@[simp] theorem State.setW_cycles (s : State) (v : Byte) : (s.setW v).cycles = s.cycles := rfl
@[simp] theorem State.setW_flagC (s : State) (v : Byte) : (s.setW v).flagC = s.flagC := rfl
@[simp] theorem State.setW_flagDC (s : State) (v : Byte) : (s.setW v).flagDC = s.flagDC := rfl
@[simp] theorem State.setW_flagZ (s : State) (v : Byte) : (s.setW v).flagZ = s.flagZ := rfl
@[simp] theorem State.setW_flagPD (s : State) (v : Byte) : (s.setW v).flagPD = s.flagPD := rfl
@[simp] theorem State.setW_flagTO (s : State) (v : Byte) : (s.setW v).flagTO = s.flagTO := rfl
@[simp] theorem State.setW_bank (s : State) (v : Byte) : (s.setW v).bank = s.bank := rfl
@[simp] theorem State.setW_irp (s : State) (v : Byte) : (s.setW v).irp = s.irp := rfl
@[simp] theorem State.setW_gie (s : State) (v : Byte) : (s.setW v).gie = s.gie := rfl
@[simp] theorem State.setW_prescalerOnTimer0 (s : State) (v : Byte) : (s.setW v).prescalerOnTimer0 = s.prescalerOnTimer0 := rfl
@[simp] theorem State.setW_classOf (s : State) (v : Byte) (addr : DataAddr) : (s.setW v).classOf addr = s.classOf addr := rfl

/-! ### State.setPc -/

@[simp] theorem State.setPc_w (s : State) (a : CodeAddr) : (s.setPc a).w = s.w := rfl
@[simp] theorem State.setPc_pc (s : State) (a : CodeAddr) : (s.setPc a).pc = a := rfl
@[simp] theorem State.setPc_stack (s : State) (a : CodeAddr) : (s.setPc a).stack = s.stack := rfl
@[simp] theorem State.setPc_stale (s : State) (a : CodeAddr) : (s.setPc a).stale = s.stale := rfl
@[simp] theorem State.setPc_status (s : State) (a : CodeAddr) : (s.setPc a).status = s.status := rfl
@[simp] theorem State.setPc_pclath (s : State) (a : CodeAddr) : (s.setPc a).pclath = s.pclath := rfl
@[simp] theorem State.setPc_fsr (s : State) (a : CodeAddr) : (s.setPc a).fsr = s.fsr := rfl
@[simp] theorem State.setPc_intcon (s : State) (a : CodeAddr) : (s.setPc a).intcon = s.intcon := rfl
@[simp] theorem State.setPc_optionReg (s : State) (a : CodeAddr) : (s.setPc a).optionReg = s.optionReg := rfl
@[simp] theorem State.setPc_tmr0 (s : State) (a : CodeAddr) : (s.setPc a).tmr0 = s.tmr0 := rfl
@[simp] theorem State.setPc_ram (s : State) (a : CodeAddr) : (s.setPc a).ram = s.ram := rfl
@[simp] theorem State.setPc_prog (s : State) (a : CodeAddr) : (s.setPc a).prog = s.prog := rfl
@[simp] theorem State.setPc_outputs (s : State) (a : CodeAddr) : (s.setPc a).outputs = s.outputs := rfl
@[simp] theorem State.setPc_wdt (s : State) (a : CodeAddr) : (s.setPc a).wdt = s.wdt := rfl
@[simp] theorem State.setPc_prescaler (s : State) (a : CodeAddr) : (s.setPc a).prescaler = s.prescaler := rfl
@[simp] theorem State.setPc_wdtArmed (s : State) (a : CodeAddr) : (s.setPc a).wdtArmed = s.wdtArmed := rfl
@[simp] theorem State.setPc_holdoff (s : State) (a : CodeAddr) : (s.setPc a).holdoff = s.holdoff := rfl
@[simp] theorem State.setPc_mode (s : State) (a : CodeAddr) : (s.setPc a).mode = s.mode := rfl
@[simp] theorem State.setPc_cfg (s : State) (a : CodeAddr) : (s.setPc a).cfg = s.cfg := rfl
@[simp] theorem State.setPc_turns (s : State) (a : CodeAddr) : (s.setPc a).turns = s.turns := rfl
@[simp] theorem State.setPc_draws (s : State) (a : CodeAddr) : (s.setPc a).draws = s.draws := rfl
@[simp] theorem State.setPc_cycles (s : State) (a : CodeAddr) : (s.setPc a).cycles = s.cycles := rfl
@[simp] theorem State.setPc_flagC (s : State) (a : CodeAddr) : (s.setPc a).flagC = s.flagC := rfl
@[simp] theorem State.setPc_flagDC (s : State) (a : CodeAddr) : (s.setPc a).flagDC = s.flagDC := rfl
@[simp] theorem State.setPc_flagZ (s : State) (a : CodeAddr) : (s.setPc a).flagZ = s.flagZ := rfl
@[simp] theorem State.setPc_flagPD (s : State) (a : CodeAddr) : (s.setPc a).flagPD = s.flagPD := rfl
@[simp] theorem State.setPc_flagTO (s : State) (a : CodeAddr) : (s.setPc a).flagTO = s.flagTO := rfl
@[simp] theorem State.setPc_bank (s : State) (a : CodeAddr) : (s.setPc a).bank = s.bank := rfl
@[simp] theorem State.setPc_irp (s : State) (a : CodeAddr) : (s.setPc a).irp = s.irp := rfl
@[simp] theorem State.setPc_gie (s : State) (a : CodeAddr) : (s.setPc a).gie = s.gie := rfl
@[simp] theorem State.setPc_prescalerOnTimer0 (s : State) (a : CodeAddr) : (s.setPc a).prescalerOnTimer0 = s.prescalerOnTimer0 := rfl
@[simp] theorem State.setPc_classOf (s : State) (a : CodeAddr) (addr : DataAddr) : (s.setPc a).classOf addr = s.classOf addr := rfl

/-! ### State.advance -/

@[simp] theorem State.advance_w (s : State) : s.advance.w = s.w := rfl
@[simp] theorem State.advance_pc (s : State) : s.advance.pc = s.pc + 1 := rfl
@[simp] theorem State.advance_stack (s : State) : s.advance.stack = s.stack := rfl
@[simp] theorem State.advance_stale (s : State) : s.advance.stale = s.stale := rfl
@[simp] theorem State.advance_status (s : State) : s.advance.status = s.status := rfl
@[simp] theorem State.advance_pclath (s : State) : s.advance.pclath = s.pclath := rfl
@[simp] theorem State.advance_fsr (s : State) : s.advance.fsr = s.fsr := rfl
@[simp] theorem State.advance_intcon (s : State) : s.advance.intcon = s.intcon := rfl
@[simp] theorem State.advance_optionReg (s : State) : s.advance.optionReg = s.optionReg := rfl
@[simp] theorem State.advance_tmr0 (s : State) : s.advance.tmr0 = s.tmr0 := rfl
@[simp] theorem State.advance_ram (s : State) : s.advance.ram = s.ram := rfl
@[simp] theorem State.advance_prog (s : State) : s.advance.prog = s.prog := rfl
@[simp] theorem State.advance_outputs (s : State) : s.advance.outputs = s.outputs := rfl
@[simp] theorem State.advance_wdt (s : State) : s.advance.wdt = s.wdt := rfl
@[simp] theorem State.advance_prescaler (s : State) : s.advance.prescaler = s.prescaler := rfl
@[simp] theorem State.advance_wdtArmed (s : State) : s.advance.wdtArmed = s.wdtArmed := rfl
@[simp] theorem State.advance_holdoff (s : State) : s.advance.holdoff = s.holdoff := rfl
@[simp] theorem State.advance_mode (s : State) : s.advance.mode = s.mode := rfl
@[simp] theorem State.advance_cfg (s : State) : s.advance.cfg = s.cfg := rfl
@[simp] theorem State.advance_turns (s : State) : s.advance.turns = s.turns := rfl
@[simp] theorem State.advance_draws (s : State) : s.advance.draws = s.draws := rfl
@[simp] theorem State.advance_cycles (s : State) : s.advance.cycles = s.cycles := rfl
@[simp] theorem State.advance_flagC (s : State) : s.advance.flagC = s.flagC := rfl
@[simp] theorem State.advance_flagDC (s : State) : s.advance.flagDC = s.flagDC := rfl
@[simp] theorem State.advance_flagZ (s : State) : s.advance.flagZ = s.flagZ := rfl
@[simp] theorem State.advance_flagPD (s : State) : s.advance.flagPD = s.flagPD := rfl
@[simp] theorem State.advance_flagTO (s : State) : s.advance.flagTO = s.flagTO := rfl
@[simp] theorem State.advance_bank (s : State) : s.advance.bank = s.bank := rfl
@[simp] theorem State.advance_irp (s : State) : s.advance.irp = s.irp := rfl
@[simp] theorem State.advance_gie (s : State) : s.advance.gie = s.gie := rfl
@[simp] theorem State.advance_prescalerOnTimer0 (s : State) : s.advance.prescalerOnTimer0 = s.prescalerOnTimer0 := rfl
@[simp] theorem State.advance_classOf (s : State) (addr : DataAddr) : s.advance.classOf addr = s.classOf addr := rfl

/-! ### State.skipIf -/

@[simp] theorem State.skipIf_w (s : State) (cond : Bool) : (s.skipIf cond).w = s.w := rfl
@[simp] theorem State.skipIf_pc (s : State) (cond : Bool) : (s.skipIf cond).pc = if cond then s.pc + 2 else s.pc + 1 := rfl
@[simp] theorem State.skipIf_stack (s : State) (cond : Bool) : (s.skipIf cond).stack = s.stack := rfl
@[simp] theorem State.skipIf_stale (s : State) (cond : Bool) : (s.skipIf cond).stale = s.stale := rfl
@[simp] theorem State.skipIf_status (s : State) (cond : Bool) : (s.skipIf cond).status = s.status := rfl
@[simp] theorem State.skipIf_pclath (s : State) (cond : Bool) : (s.skipIf cond).pclath = s.pclath := rfl
@[simp] theorem State.skipIf_fsr (s : State) (cond : Bool) : (s.skipIf cond).fsr = s.fsr := rfl
@[simp] theorem State.skipIf_intcon (s : State) (cond : Bool) : (s.skipIf cond).intcon = s.intcon := rfl
@[simp] theorem State.skipIf_optionReg (s : State) (cond : Bool) : (s.skipIf cond).optionReg = s.optionReg := rfl
@[simp] theorem State.skipIf_tmr0 (s : State) (cond : Bool) : (s.skipIf cond).tmr0 = s.tmr0 := rfl
@[simp] theorem State.skipIf_ram (s : State) (cond : Bool) : (s.skipIf cond).ram = s.ram := rfl
@[simp] theorem State.skipIf_prog (s : State) (cond : Bool) : (s.skipIf cond).prog = s.prog := rfl
@[simp] theorem State.skipIf_outputs (s : State) (cond : Bool) : (s.skipIf cond).outputs = s.outputs := rfl
@[simp] theorem State.skipIf_wdt (s : State) (cond : Bool) : (s.skipIf cond).wdt = s.wdt := rfl
@[simp] theorem State.skipIf_prescaler (s : State) (cond : Bool) : (s.skipIf cond).prescaler = s.prescaler := rfl
@[simp] theorem State.skipIf_wdtArmed (s : State) (cond : Bool) : (s.skipIf cond).wdtArmed = s.wdtArmed := rfl
@[simp] theorem State.skipIf_holdoff (s : State) (cond : Bool) : (s.skipIf cond).holdoff = s.holdoff := rfl
@[simp] theorem State.skipIf_mode (s : State) (cond : Bool) : (s.skipIf cond).mode = s.mode := rfl
@[simp] theorem State.skipIf_cfg (s : State) (cond : Bool) : (s.skipIf cond).cfg = s.cfg := rfl
@[simp] theorem State.skipIf_turns (s : State) (cond : Bool) : (s.skipIf cond).turns = s.turns := rfl
@[simp] theorem State.skipIf_draws (s : State) (cond : Bool) : (s.skipIf cond).draws = s.draws := rfl
@[simp] theorem State.skipIf_cycles (s : State) (cond : Bool) : (s.skipIf cond).cycles = s.cycles := rfl
@[simp] theorem State.skipIf_flagC (s : State) (cond : Bool) : (s.skipIf cond).flagC = s.flagC := rfl
@[simp] theorem State.skipIf_flagDC (s : State) (cond : Bool) : (s.skipIf cond).flagDC = s.flagDC := rfl
@[simp] theorem State.skipIf_flagZ (s : State) (cond : Bool) : (s.skipIf cond).flagZ = s.flagZ := rfl
@[simp] theorem State.skipIf_flagPD (s : State) (cond : Bool) : (s.skipIf cond).flagPD = s.flagPD := rfl
@[simp] theorem State.skipIf_flagTO (s : State) (cond : Bool) : (s.skipIf cond).flagTO = s.flagTO := rfl
@[simp] theorem State.skipIf_bank (s : State) (cond : Bool) : (s.skipIf cond).bank = s.bank := rfl
@[simp] theorem State.skipIf_irp (s : State) (cond : Bool) : (s.skipIf cond).irp = s.irp := rfl
@[simp] theorem State.skipIf_gie (s : State) (cond : Bool) : (s.skipIf cond).gie = s.gie := rfl
@[simp] theorem State.skipIf_prescalerOnTimer0 (s : State) (cond : Bool) : (s.skipIf cond).prescalerOnTimer0 = s.prescalerOnTimer0 := rfl
@[simp] theorem State.skipIf_classOf (s : State) (cond : Bool) (addr : DataAddr) : (s.skipIf cond).classOf addr = s.classOf addr := rfl

/-! ### State.retire -/

@[simp] theorem State.retire_w (s : State) (n : Nat) : (s.retire n).w = s.w := rfl
@[simp] theorem State.retire_pc (s : State) (n : Nat) : (s.retire n).pc = s.pc := rfl
@[simp] theorem State.retire_stack (s : State) (n : Nat) : (s.retire n).stack = s.stack := rfl
@[simp] theorem State.retire_stale (s : State) (n : Nat) : (s.retire n).stale = s.stale := rfl
@[simp] theorem State.retire_status (s : State) (n : Nat) : (s.retire n).status = s.status := rfl
@[simp] theorem State.retire_pclath (s : State) (n : Nat) : (s.retire n).pclath = s.pclath := rfl
@[simp] theorem State.retire_fsr (s : State) (n : Nat) : (s.retire n).fsr = s.fsr := rfl
@[simp] theorem State.retire_intcon (s : State) (n : Nat) : (s.retire n).intcon = s.intcon := rfl
@[simp] theorem State.retire_optionReg (s : State) (n : Nat) : (s.retire n).optionReg = s.optionReg := rfl
@[simp] theorem State.retire_tmr0 (s : State) (n : Nat) : (s.retire n).tmr0 = s.tmr0 := rfl
@[simp] theorem State.retire_ram (s : State) (n : Nat) : (s.retire n).ram = s.ram := rfl
@[simp] theorem State.retire_prog (s : State) (n : Nat) : (s.retire n).prog = s.prog := rfl
@[simp] theorem State.retire_outputs (s : State) (n : Nat) : (s.retire n).outputs = s.outputs := rfl
@[simp] theorem State.retire_wdt (s : State) (n : Nat) : (s.retire n).wdt = s.wdt := rfl
@[simp] theorem State.retire_prescaler (s : State) (n : Nat) : (s.retire n).prescaler = s.prescaler := rfl
@[simp] theorem State.retire_wdtArmed (s : State) (n : Nat) : (s.retire n).wdtArmed = true := rfl
@[simp] theorem State.retire_holdoff (s : State) (n : Nat) : (s.retire n).holdoff = false := rfl
@[simp] theorem State.retire_mode (s : State) (n : Nat) : (s.retire n).mode = s.mode := rfl
@[simp] theorem State.retire_cfg (s : State) (n : Nat) : (s.retire n).cfg = s.cfg := rfl
@[simp] theorem State.retire_turns (s : State) (n : Nat) : (s.retire n).turns = s.turns := rfl
@[simp] theorem State.retire_draws (s : State) (n : Nat) : (s.retire n).draws = s.draws := rfl
@[simp] theorem State.retire_cycles (s : State) (n : Nat) : (s.retire n).cycles = s.cycles + n := rfl
@[simp] theorem State.retire_flagC (s : State) (n : Nat) : (s.retire n).flagC = s.flagC := rfl
@[simp] theorem State.retire_flagDC (s : State) (n : Nat) : (s.retire n).flagDC = s.flagDC := rfl
@[simp] theorem State.retire_flagZ (s : State) (n : Nat) : (s.retire n).flagZ = s.flagZ := rfl
@[simp] theorem State.retire_flagPD (s : State) (n : Nat) : (s.retire n).flagPD = s.flagPD := rfl
@[simp] theorem State.retire_flagTO (s : State) (n : Nat) : (s.retire n).flagTO = s.flagTO := rfl
@[simp] theorem State.retire_bank (s : State) (n : Nat) : (s.retire n).bank = s.bank := rfl
@[simp] theorem State.retire_irp (s : State) (n : Nat) : (s.retire n).irp = s.irp := rfl
@[simp] theorem State.retire_gie (s : State) (n : Nat) : (s.retire n).gie = s.gie := rfl
@[simp] theorem State.retire_prescalerOnTimer0 (s : State) (n : Nat) : (s.retire n).prescalerOnTimer0 = s.prescalerOnTimer0 := rfl
@[simp] theorem State.retire_classOf (s : State) (n : Nat) (addr : DataAddr) : (s.retire n).classOf addr = s.classOf addr := rfl

/-! ### State.clearWatchdog -/

@[simp] theorem State.clearWatchdog_w (s : State) : s.clearWatchdog.w = s.w := rfl
@[simp] theorem State.clearWatchdog_pc (s : State) : s.clearWatchdog.pc = s.pc := rfl
@[simp] theorem State.clearWatchdog_stack (s : State) : s.clearWatchdog.stack = s.stack := rfl
@[simp] theorem State.clearWatchdog_stale (s : State) : s.clearWatchdog.stale = s.stale := rfl
@[simp] theorem State.clearWatchdog_status (s : State) : s.clearWatchdog.status = s.status := rfl
@[simp] theorem State.clearWatchdog_pclath (s : State) : s.clearWatchdog.pclath = s.pclath := rfl
@[simp] theorem State.clearWatchdog_fsr (s : State) : s.clearWatchdog.fsr = s.fsr := rfl
@[simp] theorem State.clearWatchdog_intcon (s : State) : s.clearWatchdog.intcon = s.intcon := rfl
@[simp] theorem State.clearWatchdog_optionReg (s : State) : s.clearWatchdog.optionReg = s.optionReg := rfl
@[simp] theorem State.clearWatchdog_tmr0 (s : State) : s.clearWatchdog.tmr0 = s.tmr0 := rfl
@[simp] theorem State.clearWatchdog_ram (s : State) : s.clearWatchdog.ram = s.ram := rfl
@[simp] theorem State.clearWatchdog_prog (s : State) : s.clearWatchdog.prog = s.prog := rfl
@[simp] theorem State.clearWatchdog_outputs (s : State) : s.clearWatchdog.outputs = s.outputs := rfl
@[simp] theorem State.clearWatchdog_wdt (s : State) : s.clearWatchdog.wdt = 0 := rfl
@[simp] theorem State.clearWatchdog_prescaler (s : State) : s.clearWatchdog.prescaler = 0 := rfl
@[simp] theorem State.clearWatchdog_wdtArmed (s : State) : s.clearWatchdog.wdtArmed = false := rfl
@[simp] theorem State.clearWatchdog_holdoff (s : State) : s.clearWatchdog.holdoff = s.holdoff := rfl
@[simp] theorem State.clearWatchdog_mode (s : State) : s.clearWatchdog.mode = s.mode := rfl
@[simp] theorem State.clearWatchdog_cfg (s : State) : s.clearWatchdog.cfg = s.cfg := rfl
@[simp] theorem State.clearWatchdog_turns (s : State) : s.clearWatchdog.turns = s.turns := rfl
@[simp] theorem State.clearWatchdog_draws (s : State) : s.clearWatchdog.draws = s.draws := rfl
@[simp] theorem State.clearWatchdog_cycles (s : State) : s.clearWatchdog.cycles = s.cycles := rfl
@[simp] theorem State.clearWatchdog_flagC (s : State) : s.clearWatchdog.flagC = s.flagC := rfl
@[simp] theorem State.clearWatchdog_flagDC (s : State) : s.clearWatchdog.flagDC = s.flagDC := rfl
@[simp] theorem State.clearWatchdog_flagZ (s : State) : s.clearWatchdog.flagZ = s.flagZ := rfl
@[simp] theorem State.clearWatchdog_flagPD (s : State) : s.clearWatchdog.flagPD = s.flagPD := rfl
@[simp] theorem State.clearWatchdog_flagTO (s : State) : s.clearWatchdog.flagTO = s.flagTO := rfl
@[simp] theorem State.clearWatchdog_bank (s : State) : s.clearWatchdog.bank = s.bank := rfl
@[simp] theorem State.clearWatchdog_irp (s : State) : s.clearWatchdog.irp = s.irp := rfl
@[simp] theorem State.clearWatchdog_gie (s : State) : s.clearWatchdog.gie = s.gie := rfl
@[simp] theorem State.clearWatchdog_prescalerOnTimer0 (s : State) : s.clearWatchdog.prescalerOnTimer0 = s.prescalerOnTimer0 := rfl
@[simp] theorem State.clearWatchdog_classOf (s : State) (addr : DataAddr) : s.clearWatchdog.classOf addr = s.classOf addr := rfl

/-! ### State.setFsr -/

@[simp] theorem State.setFsr_w (s : State) (v : Byte) : (s.setFsr v).w = s.w := rfl
@[simp] theorem State.setFsr_pc (s : State) (v : Byte) : (s.setFsr v).pc = s.pc := rfl
@[simp] theorem State.setFsr_stack (s : State) (v : Byte) : (s.setFsr v).stack = s.stack := rfl
@[simp] theorem State.setFsr_stale (s : State) (v : Byte) : (s.setFsr v).stale = s.stale := rfl
@[simp] theorem State.setFsr_status (s : State) (v : Byte) : (s.setFsr v).status = s.status := rfl
@[simp] theorem State.setFsr_pclath (s : State) (v : Byte) : (s.setFsr v).pclath = s.pclath := rfl
@[simp] theorem State.setFsr_fsr (s : State) (v : Byte) : (s.setFsr v).fsr = v := rfl
@[simp] theorem State.setFsr_intcon (s : State) (v : Byte) : (s.setFsr v).intcon = s.intcon := rfl
@[simp] theorem State.setFsr_optionReg (s : State) (v : Byte) : (s.setFsr v).optionReg = s.optionReg := rfl
@[simp] theorem State.setFsr_tmr0 (s : State) (v : Byte) : (s.setFsr v).tmr0 = s.tmr0 := rfl
@[simp] theorem State.setFsr_ram (s : State) (v : Byte) : (s.setFsr v).ram = s.ram := rfl
@[simp] theorem State.setFsr_prog (s : State) (v : Byte) : (s.setFsr v).prog = s.prog := rfl
@[simp] theorem State.setFsr_outputs (s : State) (v : Byte) : (s.setFsr v).outputs = s.outputs := rfl
@[simp] theorem State.setFsr_wdt (s : State) (v : Byte) : (s.setFsr v).wdt = s.wdt := rfl
@[simp] theorem State.setFsr_prescaler (s : State) (v : Byte) : (s.setFsr v).prescaler = s.prescaler := rfl
@[simp] theorem State.setFsr_wdtArmed (s : State) (v : Byte) : (s.setFsr v).wdtArmed = s.wdtArmed := rfl
@[simp] theorem State.setFsr_holdoff (s : State) (v : Byte) : (s.setFsr v).holdoff = s.holdoff := rfl
@[simp] theorem State.setFsr_mode (s : State) (v : Byte) : (s.setFsr v).mode = s.mode := rfl
@[simp] theorem State.setFsr_cfg (s : State) (v : Byte) : (s.setFsr v).cfg = s.cfg := rfl
@[simp] theorem State.setFsr_turns (s : State) (v : Byte) : (s.setFsr v).turns = s.turns := rfl
@[simp] theorem State.setFsr_draws (s : State) (v : Byte) : (s.setFsr v).draws = s.draws := rfl
@[simp] theorem State.setFsr_cycles (s : State) (v : Byte) : (s.setFsr v).cycles = s.cycles := rfl
@[simp] theorem State.setFsr_flagC (s : State) (v : Byte) : (s.setFsr v).flagC = s.flagC := rfl
@[simp] theorem State.setFsr_flagDC (s : State) (v : Byte) : (s.setFsr v).flagDC = s.flagDC := rfl
@[simp] theorem State.setFsr_flagZ (s : State) (v : Byte) : (s.setFsr v).flagZ = s.flagZ := rfl
@[simp] theorem State.setFsr_flagPD (s : State) (v : Byte) : (s.setFsr v).flagPD = s.flagPD := rfl
@[simp] theorem State.setFsr_flagTO (s : State) (v : Byte) : (s.setFsr v).flagTO = s.flagTO := rfl
@[simp] theorem State.setFsr_bank (s : State) (v : Byte) : (s.setFsr v).bank = s.bank := rfl
@[simp] theorem State.setFsr_irp (s : State) (v : Byte) : (s.setFsr v).irp = s.irp := rfl
@[simp] theorem State.setFsr_gie (s : State) (v : Byte) : (s.setFsr v).gie = s.gie := rfl
@[simp] theorem State.setFsr_prescalerOnTimer0 (s : State) (v : Byte) : (s.setFsr v).prescalerOnTimer0 = s.prescalerOnTimer0 := rfl
@[simp] theorem State.setFsr_classOf (s : State) (v : Byte) (addr : DataAddr) : (s.setFsr v).classOf addr = s.classOf addr := rfl

/-! ### State.setPclath -/

@[simp] theorem State.setPclath_w (s : State) (v : Byte) : (s.setPclath v).w = s.w := rfl
@[simp] theorem State.setPclath_pc (s : State) (v : Byte) : (s.setPclath v).pc = s.pc := rfl
@[simp] theorem State.setPclath_stack (s : State) (v : Byte) : (s.setPclath v).stack = s.stack := rfl
@[simp] theorem State.setPclath_stale (s : State) (v : Byte) : (s.setPclath v).stale = s.stale := rfl
@[simp] theorem State.setPclath_status (s : State) (v : Byte) : (s.setPclath v).status = s.status := rfl
@[simp] theorem State.setPclath_pclath (s : State) (v : Byte) : (s.setPclath v).pclath = v.extractLsb' 0 5 := rfl
@[simp] theorem State.setPclath_fsr (s : State) (v : Byte) : (s.setPclath v).fsr = s.fsr := rfl
@[simp] theorem State.setPclath_intcon (s : State) (v : Byte) : (s.setPclath v).intcon = s.intcon := rfl
@[simp] theorem State.setPclath_optionReg (s : State) (v : Byte) : (s.setPclath v).optionReg = s.optionReg := rfl
@[simp] theorem State.setPclath_tmr0 (s : State) (v : Byte) : (s.setPclath v).tmr0 = s.tmr0 := rfl
@[simp] theorem State.setPclath_ram (s : State) (v : Byte) : (s.setPclath v).ram = s.ram := rfl
@[simp] theorem State.setPclath_prog (s : State) (v : Byte) : (s.setPclath v).prog = s.prog := rfl
@[simp] theorem State.setPclath_outputs (s : State) (v : Byte) : (s.setPclath v).outputs = s.outputs := rfl
@[simp] theorem State.setPclath_wdt (s : State) (v : Byte) : (s.setPclath v).wdt = s.wdt := rfl
@[simp] theorem State.setPclath_prescaler (s : State) (v : Byte) : (s.setPclath v).prescaler = s.prescaler := rfl
@[simp] theorem State.setPclath_wdtArmed (s : State) (v : Byte) : (s.setPclath v).wdtArmed = s.wdtArmed := rfl
@[simp] theorem State.setPclath_holdoff (s : State) (v : Byte) : (s.setPclath v).holdoff = s.holdoff := rfl
@[simp] theorem State.setPclath_mode (s : State) (v : Byte) : (s.setPclath v).mode = s.mode := rfl
@[simp] theorem State.setPclath_cfg (s : State) (v : Byte) : (s.setPclath v).cfg = s.cfg := rfl
@[simp] theorem State.setPclath_turns (s : State) (v : Byte) : (s.setPclath v).turns = s.turns := rfl
@[simp] theorem State.setPclath_draws (s : State) (v : Byte) : (s.setPclath v).draws = s.draws := rfl
@[simp] theorem State.setPclath_cycles (s : State) (v : Byte) : (s.setPclath v).cycles = s.cycles := rfl
@[simp] theorem State.setPclath_flagC (s : State) (v : Byte) : (s.setPclath v).flagC = s.flagC := rfl
@[simp] theorem State.setPclath_flagDC (s : State) (v : Byte) : (s.setPclath v).flagDC = s.flagDC := rfl
@[simp] theorem State.setPclath_flagZ (s : State) (v : Byte) : (s.setPclath v).flagZ = s.flagZ := rfl
@[simp] theorem State.setPclath_flagPD (s : State) (v : Byte) : (s.setPclath v).flagPD = s.flagPD := rfl
@[simp] theorem State.setPclath_flagTO (s : State) (v : Byte) : (s.setPclath v).flagTO = s.flagTO := rfl
@[simp] theorem State.setPclath_bank (s : State) (v : Byte) : (s.setPclath v).bank = s.bank := rfl
@[simp] theorem State.setPclath_irp (s : State) (v : Byte) : (s.setPclath v).irp = s.irp := rfl
@[simp] theorem State.setPclath_gie (s : State) (v : Byte) : (s.setPclath v).gie = s.gie := rfl
@[simp] theorem State.setPclath_prescalerOnTimer0 (s : State) (v : Byte) : (s.setPclath v).prescalerOnTimer0 = s.prescalerOnTimer0 := rfl
@[simp] theorem State.setPclath_classOf (s : State) (v : Byte) (addr : DataAddr) : (s.setPclath v).classOf addr = s.classOf addr := rfl

/-! ### State.setIntcon -/

@[simp] theorem State.setIntcon_w (s : State) (v : Byte) : (s.setIntcon v).w = s.w := rfl
@[simp] theorem State.setIntcon_pc (s : State) (v : Byte) : (s.setIntcon v).pc = s.pc := rfl
@[simp] theorem State.setIntcon_stack (s : State) (v : Byte) : (s.setIntcon v).stack = s.stack := rfl
@[simp] theorem State.setIntcon_stale (s : State) (v : Byte) : (s.setIntcon v).stale = s.stale := rfl
@[simp] theorem State.setIntcon_status (s : State) (v : Byte) : (s.setIntcon v).status = s.status := rfl
@[simp] theorem State.setIntcon_pclath (s : State) (v : Byte) : (s.setIntcon v).pclath = s.pclath := rfl
@[simp] theorem State.setIntcon_fsr (s : State) (v : Byte) : (s.setIntcon v).fsr = s.fsr := rfl
@[simp] theorem State.setIntcon_intcon (s : State) (v : Byte) : (s.setIntcon v).intcon = v := rfl
@[simp] theorem State.setIntcon_optionReg (s : State) (v : Byte) : (s.setIntcon v).optionReg = s.optionReg := rfl
@[simp] theorem State.setIntcon_tmr0 (s : State) (v : Byte) : (s.setIntcon v).tmr0 = s.tmr0 := rfl
@[simp] theorem State.setIntcon_ram (s : State) (v : Byte) : (s.setIntcon v).ram = s.ram := rfl
@[simp] theorem State.setIntcon_prog (s : State) (v : Byte) : (s.setIntcon v).prog = s.prog := rfl
@[simp] theorem State.setIntcon_outputs (s : State) (v : Byte) : (s.setIntcon v).outputs = s.outputs := rfl
@[simp] theorem State.setIntcon_wdt (s : State) (v : Byte) : (s.setIntcon v).wdt = s.wdt := rfl
@[simp] theorem State.setIntcon_prescaler (s : State) (v : Byte) : (s.setIntcon v).prescaler = s.prescaler := rfl
@[simp] theorem State.setIntcon_wdtArmed (s : State) (v : Byte) : (s.setIntcon v).wdtArmed = s.wdtArmed := rfl
@[simp] theorem State.setIntcon_holdoff (s : State) (v : Byte) : (s.setIntcon v).holdoff = s.holdoff := rfl
@[simp] theorem State.setIntcon_mode (s : State) (v : Byte) : (s.setIntcon v).mode = s.mode := rfl
@[simp] theorem State.setIntcon_cfg (s : State) (v : Byte) : (s.setIntcon v).cfg = s.cfg := rfl
@[simp] theorem State.setIntcon_turns (s : State) (v : Byte) : (s.setIntcon v).turns = s.turns := rfl
@[simp] theorem State.setIntcon_draws (s : State) (v : Byte) : (s.setIntcon v).draws = s.draws := rfl
@[simp] theorem State.setIntcon_cycles (s : State) (v : Byte) : (s.setIntcon v).cycles = s.cycles := rfl
@[simp] theorem State.setIntcon_flagC (s : State) (v : Byte) : (s.setIntcon v).flagC = s.flagC := rfl
@[simp] theorem State.setIntcon_flagDC (s : State) (v : Byte) : (s.setIntcon v).flagDC = s.flagDC := rfl
@[simp] theorem State.setIntcon_flagZ (s : State) (v : Byte) : (s.setIntcon v).flagZ = s.flagZ := rfl
@[simp] theorem State.setIntcon_flagPD (s : State) (v : Byte) : (s.setIntcon v).flagPD = s.flagPD := rfl
@[simp] theorem State.setIntcon_flagTO (s : State) (v : Byte) : (s.setIntcon v).flagTO = s.flagTO := rfl
@[simp] theorem State.setIntcon_bank (s : State) (v : Byte) : (s.setIntcon v).bank = s.bank := rfl
@[simp] theorem State.setIntcon_irp (s : State) (v : Byte) : (s.setIntcon v).irp = s.irp := rfl
@[simp] theorem State.setIntcon_prescalerOnTimer0 (s : State) (v : Byte) : (s.setIntcon v).prescalerOnTimer0 = s.prescalerOnTimer0 := rfl
@[simp] theorem State.setIntcon_classOf (s : State) (v : Byte) (addr : DataAddr) : (s.setIntcon v).classOf addr = s.classOf addr := rfl

/-! ### State.setRam -/

@[simp] theorem State.setRam_w (s : State) (c : Nat) (v : Byte) : (s.setRam c v).w = s.w := rfl
@[simp] theorem State.setRam_pc (s : State) (c : Nat) (v : Byte) : (s.setRam c v).pc = s.pc := rfl
@[simp] theorem State.setRam_stack (s : State) (c : Nat) (v : Byte) : (s.setRam c v).stack = s.stack := rfl
@[simp] theorem State.setRam_stale (s : State) (c : Nat) (v : Byte) : (s.setRam c v).stale = s.stale := rfl
@[simp] theorem State.setRam_status (s : State) (c : Nat) (v : Byte) : (s.setRam c v).status = s.status := rfl
@[simp] theorem State.setRam_pclath (s : State) (c : Nat) (v : Byte) : (s.setRam c v).pclath = s.pclath := rfl
@[simp] theorem State.setRam_fsr (s : State) (c : Nat) (v : Byte) : (s.setRam c v).fsr = s.fsr := rfl
@[simp] theorem State.setRam_intcon (s : State) (c : Nat) (v : Byte) : (s.setRam c v).intcon = s.intcon := rfl
@[simp] theorem State.setRam_optionReg (s : State) (c : Nat) (v : Byte) : (s.setRam c v).optionReg = s.optionReg := rfl
@[simp] theorem State.setRam_tmr0 (s : State) (c : Nat) (v : Byte) : (s.setRam c v).tmr0 = s.tmr0 := rfl
@[simp] theorem State.setRam_ram (s : State) (c : Nat) (v : Byte) : (s.setRam c v).ram = ramWrite s.ram c v := rfl
@[simp] theorem State.setRam_prog (s : State) (c : Nat) (v : Byte) : (s.setRam c v).prog = s.prog := rfl
@[simp] theorem State.setRam_outputs (s : State) (c : Nat) (v : Byte) : (s.setRam c v).outputs = s.outputs := rfl
@[simp] theorem State.setRam_wdt (s : State) (c : Nat) (v : Byte) : (s.setRam c v).wdt = s.wdt := rfl
@[simp] theorem State.setRam_prescaler (s : State) (c : Nat) (v : Byte) : (s.setRam c v).prescaler = s.prescaler := rfl
@[simp] theorem State.setRam_wdtArmed (s : State) (c : Nat) (v : Byte) : (s.setRam c v).wdtArmed = s.wdtArmed := rfl
@[simp] theorem State.setRam_holdoff (s : State) (c : Nat) (v : Byte) : (s.setRam c v).holdoff = s.holdoff := rfl
@[simp] theorem State.setRam_mode (s : State) (c : Nat) (v : Byte) : (s.setRam c v).mode = s.mode := rfl
@[simp] theorem State.setRam_cfg (s : State) (c : Nat) (v : Byte) : (s.setRam c v).cfg = s.cfg := rfl
@[simp] theorem State.setRam_turns (s : State) (c : Nat) (v : Byte) : (s.setRam c v).turns = s.turns := rfl
@[simp] theorem State.setRam_draws (s : State) (c : Nat) (v : Byte) : (s.setRam c v).draws = s.draws := rfl
@[simp] theorem State.setRam_cycles (s : State) (c : Nat) (v : Byte) : (s.setRam c v).cycles = s.cycles := rfl
@[simp] theorem State.setRam_flagC (s : State) (c : Nat) (v : Byte) : (s.setRam c v).flagC = s.flagC := rfl
@[simp] theorem State.setRam_flagDC (s : State) (c : Nat) (v : Byte) : (s.setRam c v).flagDC = s.flagDC := rfl
@[simp] theorem State.setRam_flagZ (s : State) (c : Nat) (v : Byte) : (s.setRam c v).flagZ = s.flagZ := rfl
@[simp] theorem State.setRam_flagPD (s : State) (c : Nat) (v : Byte) : (s.setRam c v).flagPD = s.flagPD := rfl
@[simp] theorem State.setRam_flagTO (s : State) (c : Nat) (v : Byte) : (s.setRam c v).flagTO = s.flagTO := rfl
@[simp] theorem State.setRam_bank (s : State) (c : Nat) (v : Byte) : (s.setRam c v).bank = s.bank := rfl
@[simp] theorem State.setRam_irp (s : State) (c : Nat) (v : Byte) : (s.setRam c v).irp = s.irp := rfl
@[simp] theorem State.setRam_gie (s : State) (c : Nat) (v : Byte) : (s.setRam c v).gie = s.gie := rfl
@[simp] theorem State.setRam_prescalerOnTimer0 (s : State) (c : Nat) (v : Byte) : (s.setRam c v).prescalerOnTimer0 = s.prescalerOnTimer0 := rfl
@[simp] theorem State.setRam_classOf (s : State) (c : Nat) (v : Byte) (addr : DataAddr) : (s.setRam c v).classOf addr = s.classOf addr := rfl

/-! ### State.setOptionReg -/

@[simp] theorem State.setOptionReg_w (s : State) (v : Byte) : (s.setOptionReg v).w = s.w := rfl
@[simp] theorem State.setOptionReg_pc (s : State) (v : Byte) : (s.setOptionReg v).pc = s.pc := rfl
@[simp] theorem State.setOptionReg_stack (s : State) (v : Byte) : (s.setOptionReg v).stack = s.stack := rfl
@[simp] theorem State.setOptionReg_stale (s : State) (v : Byte) : (s.setOptionReg v).stale = s.stale := rfl
@[simp] theorem State.setOptionReg_status (s : State) (v : Byte) : (s.setOptionReg v).status = s.status := rfl
@[simp] theorem State.setOptionReg_pclath (s : State) (v : Byte) : (s.setOptionReg v).pclath = s.pclath := rfl
@[simp] theorem State.setOptionReg_fsr (s : State) (v : Byte) : (s.setOptionReg v).fsr = s.fsr := rfl
@[simp] theorem State.setOptionReg_intcon (s : State) (v : Byte) : (s.setOptionReg v).intcon = s.intcon := rfl
@[simp] theorem State.setOptionReg_optionReg (s : State) (v : Byte) : (s.setOptionReg v).optionReg = v := rfl
@[simp] theorem State.setOptionReg_tmr0 (s : State) (v : Byte) : (s.setOptionReg v).tmr0 = s.tmr0 := rfl
@[simp] theorem State.setOptionReg_ram (s : State) (v : Byte) : (s.setOptionReg v).ram = s.ram := rfl
@[simp] theorem State.setOptionReg_prog (s : State) (v : Byte) : (s.setOptionReg v).prog = s.prog := rfl
@[simp] theorem State.setOptionReg_outputs (s : State) (v : Byte) : (s.setOptionReg v).outputs = s.outputs := rfl
@[simp] theorem State.setOptionReg_wdt (s : State) (v : Byte) : (s.setOptionReg v).wdt = s.wdt := rfl
@[simp] theorem State.setOptionReg_prescaler (s : State) (v : Byte) : (s.setOptionReg v).prescaler = s.prescaler := rfl
@[simp] theorem State.setOptionReg_wdtArmed (s : State) (v : Byte) : (s.setOptionReg v).wdtArmed = s.wdtArmed := rfl
@[simp] theorem State.setOptionReg_holdoff (s : State) (v : Byte) : (s.setOptionReg v).holdoff = s.holdoff := rfl
@[simp] theorem State.setOptionReg_mode (s : State) (v : Byte) : (s.setOptionReg v).mode = s.mode := rfl
@[simp] theorem State.setOptionReg_cfg (s : State) (v : Byte) : (s.setOptionReg v).cfg = s.cfg := rfl
@[simp] theorem State.setOptionReg_turns (s : State) (v : Byte) : (s.setOptionReg v).turns = s.turns := rfl
@[simp] theorem State.setOptionReg_draws (s : State) (v : Byte) : (s.setOptionReg v).draws = s.draws := rfl
@[simp] theorem State.setOptionReg_cycles (s : State) (v : Byte) : (s.setOptionReg v).cycles = s.cycles := rfl
@[simp] theorem State.setOptionReg_flagC (s : State) (v : Byte) : (s.setOptionReg v).flagC = s.flagC := rfl
@[simp] theorem State.setOptionReg_flagDC (s : State) (v : Byte) : (s.setOptionReg v).flagDC = s.flagDC := rfl
@[simp] theorem State.setOptionReg_flagZ (s : State) (v : Byte) : (s.setOptionReg v).flagZ = s.flagZ := rfl
@[simp] theorem State.setOptionReg_flagPD (s : State) (v : Byte) : (s.setOptionReg v).flagPD = s.flagPD := rfl
@[simp] theorem State.setOptionReg_flagTO (s : State) (v : Byte) : (s.setOptionReg v).flagTO = s.flagTO := rfl
@[simp] theorem State.setOptionReg_bank (s : State) (v : Byte) : (s.setOptionReg v).bank = s.bank := rfl
@[simp] theorem State.setOptionReg_irp (s : State) (v : Byte) : (s.setOptionReg v).irp = s.irp := rfl
@[simp] theorem State.setOptionReg_gie (s : State) (v : Byte) : (s.setOptionReg v).gie = s.gie := rfl
@[simp] theorem State.setOptionReg_classOf (s : State) (v : Byte) (addr : DataAddr) : (s.setOptionReg v).classOf addr = s.classOf addr := rfl

/-! ### State.setTmr0 -/

@[simp] theorem State.setTmr0_w (s : State) (v : Byte) : (s.setTmr0 v).w = s.w := rfl
@[simp] theorem State.setTmr0_pc (s : State) (v : Byte) : (s.setTmr0 v).pc = s.pc := rfl
@[simp] theorem State.setTmr0_stack (s : State) (v : Byte) : (s.setTmr0 v).stack = s.stack := rfl
@[simp] theorem State.setTmr0_stale (s : State) (v : Byte) : (s.setTmr0 v).stale = s.stale := rfl
@[simp] theorem State.setTmr0_status (s : State) (v : Byte) : (s.setTmr0 v).status = s.status := rfl
@[simp] theorem State.setTmr0_pclath (s : State) (v : Byte) : (s.setTmr0 v).pclath = s.pclath := rfl
@[simp] theorem State.setTmr0_fsr (s : State) (v : Byte) : (s.setTmr0 v).fsr = s.fsr := rfl
@[simp] theorem State.setTmr0_intcon (s : State) (v : Byte) : (s.setTmr0 v).intcon = s.intcon := rfl
@[simp] theorem State.setTmr0_optionReg (s : State) (v : Byte) : (s.setTmr0 v).optionReg = s.optionReg := rfl
@[simp] theorem State.setTmr0_tmr0 (s : State) (v : Byte) : (s.setTmr0 v).tmr0 = v := rfl
@[simp] theorem State.setTmr0_ram (s : State) (v : Byte) : (s.setTmr0 v).ram = s.ram := rfl
@[simp] theorem State.setTmr0_prog (s : State) (v : Byte) : (s.setTmr0 v).prog = s.prog := rfl
@[simp] theorem State.setTmr0_outputs (s : State) (v : Byte) : (s.setTmr0 v).outputs = s.outputs := rfl
@[simp] theorem State.setTmr0_wdt (s : State) (v : Byte) : (s.setTmr0 v).wdt = s.wdt := rfl
@[simp] theorem State.setTmr0_prescaler (s : State) (v : Byte) : (s.setTmr0 v).prescaler = if s.prescalerOnTimer0 then 0 else s.prescaler := rfl
@[simp] theorem State.setTmr0_wdtArmed (s : State) (v : Byte) : (s.setTmr0 v).wdtArmed = s.wdtArmed := rfl
@[simp] theorem State.setTmr0_holdoff (s : State) (v : Byte) : (s.setTmr0 v).holdoff = s.holdoff := rfl
@[simp] theorem State.setTmr0_mode (s : State) (v : Byte) : (s.setTmr0 v).mode = s.mode := rfl
@[simp] theorem State.setTmr0_cfg (s : State) (v : Byte) : (s.setTmr0 v).cfg = s.cfg := rfl
@[simp] theorem State.setTmr0_turns (s : State) (v : Byte) : (s.setTmr0 v).turns = s.turns := rfl
@[simp] theorem State.setTmr0_draws (s : State) (v : Byte) : (s.setTmr0 v).draws = s.draws := rfl
@[simp] theorem State.setTmr0_cycles (s : State) (v : Byte) : (s.setTmr0 v).cycles = s.cycles := rfl
@[simp] theorem State.setTmr0_flagC (s : State) (v : Byte) : (s.setTmr0 v).flagC = s.flagC := rfl
@[simp] theorem State.setTmr0_flagDC (s : State) (v : Byte) : (s.setTmr0 v).flagDC = s.flagDC := rfl
@[simp] theorem State.setTmr0_flagZ (s : State) (v : Byte) : (s.setTmr0 v).flagZ = s.flagZ := rfl
@[simp] theorem State.setTmr0_flagPD (s : State) (v : Byte) : (s.setTmr0 v).flagPD = s.flagPD := rfl
@[simp] theorem State.setTmr0_flagTO (s : State) (v : Byte) : (s.setTmr0 v).flagTO = s.flagTO := rfl
@[simp] theorem State.setTmr0_bank (s : State) (v : Byte) : (s.setTmr0 v).bank = s.bank := rfl
@[simp] theorem State.setTmr0_irp (s : State) (v : Byte) : (s.setTmr0 v).irp = s.irp := rfl
@[simp] theorem State.setTmr0_gie (s : State) (v : Byte) : (s.setTmr0 v).gie = s.gie := rfl
@[simp] theorem State.setTmr0_prescalerOnTimer0 (s : State) (v : Byte) : (s.setTmr0 v).prescalerOnTimer0 = s.prescalerOnTimer0 := rfl
@[simp] theorem State.setTmr0_classOf (s : State) (v : Byte) (addr : DataAddr) : (s.setTmr0 v).classOf addr = s.classOf addr := rfl

/-! ### State.countDraws -/

@[simp] theorem State.countDraws_w (s : State) (n : Nat) : (s.countDraws n).w = s.w := rfl
@[simp] theorem State.countDraws_pc (s : State) (n : Nat) : (s.countDraws n).pc = s.pc := rfl
@[simp] theorem State.countDraws_stack (s : State) (n : Nat) : (s.countDraws n).stack = s.stack := rfl
@[simp] theorem State.countDraws_stale (s : State) (n : Nat) : (s.countDraws n).stale = s.stale := rfl
@[simp] theorem State.countDraws_status (s : State) (n : Nat) : (s.countDraws n).status = s.status := rfl
@[simp] theorem State.countDraws_pclath (s : State) (n : Nat) : (s.countDraws n).pclath = s.pclath := rfl
@[simp] theorem State.countDraws_fsr (s : State) (n : Nat) : (s.countDraws n).fsr = s.fsr := rfl
@[simp] theorem State.countDraws_intcon (s : State) (n : Nat) : (s.countDraws n).intcon = s.intcon := rfl
@[simp] theorem State.countDraws_optionReg (s : State) (n : Nat) : (s.countDraws n).optionReg = s.optionReg := rfl
@[simp] theorem State.countDraws_tmr0 (s : State) (n : Nat) : (s.countDraws n).tmr0 = s.tmr0 := rfl
@[simp] theorem State.countDraws_ram (s : State) (n : Nat) : (s.countDraws n).ram = s.ram := rfl
@[simp] theorem State.countDraws_prog (s : State) (n : Nat) : (s.countDraws n).prog = s.prog := rfl
@[simp] theorem State.countDraws_outputs (s : State) (n : Nat) : (s.countDraws n).outputs = s.outputs := rfl
@[simp] theorem State.countDraws_wdt (s : State) (n : Nat) : (s.countDraws n).wdt = s.wdt := rfl
@[simp] theorem State.countDraws_prescaler (s : State) (n : Nat) : (s.countDraws n).prescaler = s.prescaler := rfl
@[simp] theorem State.countDraws_wdtArmed (s : State) (n : Nat) : (s.countDraws n).wdtArmed = s.wdtArmed := rfl
@[simp] theorem State.countDraws_holdoff (s : State) (n : Nat) : (s.countDraws n).holdoff = s.holdoff := rfl
@[simp] theorem State.countDraws_mode (s : State) (n : Nat) : (s.countDraws n).mode = s.mode := rfl
@[simp] theorem State.countDraws_cfg (s : State) (n : Nat) : (s.countDraws n).cfg = s.cfg := rfl
@[simp] theorem State.countDraws_turns (s : State) (n : Nat) : (s.countDraws n).turns = s.turns := rfl
@[simp] theorem State.countDraws_draws (s : State) (n : Nat) : (s.countDraws n).draws = s.draws + n := rfl
@[simp] theorem State.countDraws_cycles (s : State) (n : Nat) : (s.countDraws n).cycles = s.cycles := rfl
@[simp] theorem State.countDraws_flagC (s : State) (n : Nat) : (s.countDraws n).flagC = s.flagC := rfl
@[simp] theorem State.countDraws_flagDC (s : State) (n : Nat) : (s.countDraws n).flagDC = s.flagDC := rfl
@[simp] theorem State.countDraws_flagZ (s : State) (n : Nat) : (s.countDraws n).flagZ = s.flagZ := rfl
@[simp] theorem State.countDraws_flagPD (s : State) (n : Nat) : (s.countDraws n).flagPD = s.flagPD := rfl
@[simp] theorem State.countDraws_flagTO (s : State) (n : Nat) : (s.countDraws n).flagTO = s.flagTO := rfl
@[simp] theorem State.countDraws_bank (s : State) (n : Nat) : (s.countDraws n).bank = s.bank := rfl
@[simp] theorem State.countDraws_irp (s : State) (n : Nat) : (s.countDraws n).irp = s.irp := rfl
@[simp] theorem State.countDraws_gie (s : State) (n : Nat) : (s.countDraws n).gie = s.gie := rfl
@[simp] theorem State.countDraws_prescalerOnTimer0 (s : State) (n : Nat) : (s.countDraws n).prescalerOnTimer0 = s.prescalerOnTimer0 := rfl
@[simp] theorem State.countDraws_classOf (s : State) (n : Nat) (addr : DataAddr) : (s.countDraws n).classOf addr = s.classOf addr := rfl

/-! ### State.emit -/

@[simp] theorem State.emit_w (s : State) (a : DataAddr) (v : Byte) : (s.emit a v).w = s.w := rfl
@[simp] theorem State.emit_pc (s : State) (a : DataAddr) (v : Byte) : (s.emit a v).pc = s.pc := rfl
@[simp] theorem State.emit_stack (s : State) (a : DataAddr) (v : Byte) : (s.emit a v).stack = s.stack := rfl
@[simp] theorem State.emit_stale (s : State) (a : DataAddr) (v : Byte) : (s.emit a v).stale = s.stale := rfl
@[simp] theorem State.emit_status (s : State) (a : DataAddr) (v : Byte) : (s.emit a v).status = s.status := rfl
@[simp] theorem State.emit_pclath (s : State) (a : DataAddr) (v : Byte) : (s.emit a v).pclath = s.pclath := rfl
@[simp] theorem State.emit_fsr (s : State) (a : DataAddr) (v : Byte) : (s.emit a v).fsr = s.fsr := rfl
@[simp] theorem State.emit_intcon (s : State) (a : DataAddr) (v : Byte) : (s.emit a v).intcon = s.intcon := rfl
@[simp] theorem State.emit_optionReg (s : State) (a : DataAddr) (v : Byte) : (s.emit a v).optionReg = s.optionReg := rfl
@[simp] theorem State.emit_tmr0 (s : State) (a : DataAddr) (v : Byte) : (s.emit a v).tmr0 = s.tmr0 := rfl
@[simp] theorem State.emit_ram (s : State) (a : DataAddr) (v : Byte) : (s.emit a v).ram = s.ram := rfl
@[simp] theorem State.emit_prog (s : State) (a : DataAddr) (v : Byte) : (s.emit a v).prog = s.prog := rfl
@[simp] theorem State.emit_outputs (s : State) (a : DataAddr) (v : Byte) : (s.emit a v).outputs = { addr := a, value := v } :: s.outputs := rfl
@[simp] theorem State.emit_wdt (s : State) (a : DataAddr) (v : Byte) : (s.emit a v).wdt = s.wdt := rfl
@[simp] theorem State.emit_prescaler (s : State) (a : DataAddr) (v : Byte) : (s.emit a v).prescaler = s.prescaler := rfl
@[simp] theorem State.emit_wdtArmed (s : State) (a : DataAddr) (v : Byte) : (s.emit a v).wdtArmed = s.wdtArmed := rfl
@[simp] theorem State.emit_holdoff (s : State) (a : DataAddr) (v : Byte) : (s.emit a v).holdoff = s.holdoff := rfl
@[simp] theorem State.emit_mode (s : State) (a : DataAddr) (v : Byte) : (s.emit a v).mode = s.mode := rfl
@[simp] theorem State.emit_cfg (s : State) (a : DataAddr) (v : Byte) : (s.emit a v).cfg = s.cfg := rfl
@[simp] theorem State.emit_turns (s : State) (a : DataAddr) (v : Byte) : (s.emit a v).turns = s.turns := rfl
@[simp] theorem State.emit_draws (s : State) (a : DataAddr) (v : Byte) : (s.emit a v).draws = s.draws := rfl
@[simp] theorem State.emit_cycles (s : State) (a : DataAddr) (v : Byte) : (s.emit a v).cycles = s.cycles := rfl
@[simp] theorem State.emit_flagC (s : State) (a : DataAddr) (v : Byte) : (s.emit a v).flagC = s.flagC := rfl
@[simp] theorem State.emit_flagDC (s : State) (a : DataAddr) (v : Byte) : (s.emit a v).flagDC = s.flagDC := rfl
@[simp] theorem State.emit_flagZ (s : State) (a : DataAddr) (v : Byte) : (s.emit a v).flagZ = s.flagZ := rfl
@[simp] theorem State.emit_flagPD (s : State) (a : DataAddr) (v : Byte) : (s.emit a v).flagPD = s.flagPD := rfl
@[simp] theorem State.emit_flagTO (s : State) (a : DataAddr) (v : Byte) : (s.emit a v).flagTO = s.flagTO := rfl
@[simp] theorem State.emit_bank (s : State) (a : DataAddr) (v : Byte) : (s.emit a v).bank = s.bank := rfl
@[simp] theorem State.emit_irp (s : State) (a : DataAddr) (v : Byte) : (s.emit a v).irp = s.irp := rfl
@[simp] theorem State.emit_gie (s : State) (a : DataAddr) (v : Byte) : (s.emit a v).gie = s.gie := rfl
@[simp] theorem State.emit_prescalerOnTimer0 (s : State) (a : DataAddr) (v : Byte) : (s.emit a v).prescalerOnTimer0 = s.prescalerOnTimer0 := rfl
@[simp] theorem State.emit_classOf (s : State) (a : DataAddr) (v : Byte) (addr : DataAddr) : (s.emit a v).classOf addr = s.classOf addr := rfl

/-! ### State.setTimeoutBits -/

@[simp] theorem State.setTimeoutBits_w (s : State) (x y : Bool) : (s.setTimeoutBits x y).w = s.w := rfl
@[simp] theorem State.setTimeoutBits_pc (s : State) (x y : Bool) : (s.setTimeoutBits x y).pc = s.pc := rfl
@[simp] theorem State.setTimeoutBits_stack (s : State) (x y : Bool) : (s.setTimeoutBits x y).stack = s.stack := rfl
@[simp] theorem State.setTimeoutBits_stale (s : State) (x y : Bool) : (s.setTimeoutBits x y).stale = s.stale := rfl
@[simp] theorem State.setTimeoutBits_status (s : State) (x y : Bool) : (s.setTimeoutBits x y).status = packStatus (s.status.extractLsb' 5 3) x y s.flagZ s.flagDC s.flagC := rfl
@[simp] theorem State.setTimeoutBits_pclath (s : State) (x y : Bool) : (s.setTimeoutBits x y).pclath = s.pclath := rfl
@[simp] theorem State.setTimeoutBits_fsr (s : State) (x y : Bool) : (s.setTimeoutBits x y).fsr = s.fsr := rfl
@[simp] theorem State.setTimeoutBits_intcon (s : State) (x y : Bool) : (s.setTimeoutBits x y).intcon = s.intcon := rfl
@[simp] theorem State.setTimeoutBits_optionReg (s : State) (x y : Bool) : (s.setTimeoutBits x y).optionReg = s.optionReg := rfl
@[simp] theorem State.setTimeoutBits_tmr0 (s : State) (x y : Bool) : (s.setTimeoutBits x y).tmr0 = s.tmr0 := rfl
@[simp] theorem State.setTimeoutBits_ram (s : State) (x y : Bool) : (s.setTimeoutBits x y).ram = s.ram := rfl
@[simp] theorem State.setTimeoutBits_prog (s : State) (x y : Bool) : (s.setTimeoutBits x y).prog = s.prog := rfl
@[simp] theorem State.setTimeoutBits_outputs (s : State) (x y : Bool) : (s.setTimeoutBits x y).outputs = s.outputs := rfl
@[simp] theorem State.setTimeoutBits_wdt (s : State) (x y : Bool) : (s.setTimeoutBits x y).wdt = s.wdt := rfl
@[simp] theorem State.setTimeoutBits_prescaler (s : State) (x y : Bool) : (s.setTimeoutBits x y).prescaler = s.prescaler := rfl
@[simp] theorem State.setTimeoutBits_wdtArmed (s : State) (x y : Bool) : (s.setTimeoutBits x y).wdtArmed = s.wdtArmed := rfl
@[simp] theorem State.setTimeoutBits_holdoff (s : State) (x y : Bool) : (s.setTimeoutBits x y).holdoff = s.holdoff := rfl
@[simp] theorem State.setTimeoutBits_mode (s : State) (x y : Bool) : (s.setTimeoutBits x y).mode = s.mode := rfl
@[simp] theorem State.setTimeoutBits_cfg (s : State) (x y : Bool) : (s.setTimeoutBits x y).cfg = s.cfg := rfl
@[simp] theorem State.setTimeoutBits_turns (s : State) (x y : Bool) : (s.setTimeoutBits x y).turns = s.turns := rfl
@[simp] theorem State.setTimeoutBits_draws (s : State) (x y : Bool) : (s.setTimeoutBits x y).draws = s.draws := rfl
@[simp] theorem State.setTimeoutBits_cycles (s : State) (x y : Bool) : (s.setTimeoutBits x y).cycles = s.cycles := rfl
@[simp] theorem State.setTimeoutBits_gie (s : State) (x y : Bool) : (s.setTimeoutBits x y).gie = s.gie := rfl
@[simp] theorem State.setTimeoutBits_prescalerOnTimer0 (s : State) (x y : Bool) : (s.setTimeoutBits x y).prescalerOnTimer0 = s.prescalerOnTimer0 := rfl
@[simp] theorem State.setTimeoutBits_classOf (s : State) (x y : Bool) (addr : DataAddr) : (s.setTimeoutBits x y).classOf addr = s.classOf addr := rfl

/-! ### State.setGie -/

@[simp] theorem State.setGie_w (s : State) (on : Bool) : (s.setGie on).w = s.w := rfl
@[simp] theorem State.setGie_pc (s : State) (on : Bool) : (s.setGie on).pc = s.pc := rfl
@[simp] theorem State.setGie_stack (s : State) (on : Bool) : (s.setGie on).stack = s.stack := rfl
@[simp] theorem State.setGie_stale (s : State) (on : Bool) : (s.setGie on).stale = s.stale := rfl
@[simp] theorem State.setGie_status (s : State) (on : Bool) : (s.setGie on).status = s.status := rfl
@[simp] theorem State.setGie_pclath (s : State) (on : Bool) : (s.setGie on).pclath = s.pclath := rfl
@[simp] theorem State.setGie_fsr (s : State) (on : Bool) : (s.setGie on).fsr = s.fsr := rfl
@[simp] theorem State.setGie_intcon (s : State) (on : Bool) : (s.setGie on).intcon = if on then setBit s.intcon bitGIE else clearBit s.intcon bitGIE := rfl
@[simp] theorem State.setGie_optionReg (s : State) (on : Bool) : (s.setGie on).optionReg = s.optionReg := rfl
@[simp] theorem State.setGie_tmr0 (s : State) (on : Bool) : (s.setGie on).tmr0 = s.tmr0 := rfl
@[simp] theorem State.setGie_ram (s : State) (on : Bool) : (s.setGie on).ram = s.ram := rfl
@[simp] theorem State.setGie_prog (s : State) (on : Bool) : (s.setGie on).prog = s.prog := rfl
@[simp] theorem State.setGie_outputs (s : State) (on : Bool) : (s.setGie on).outputs = s.outputs := rfl
@[simp] theorem State.setGie_wdt (s : State) (on : Bool) : (s.setGie on).wdt = s.wdt := rfl
@[simp] theorem State.setGie_prescaler (s : State) (on : Bool) : (s.setGie on).prescaler = s.prescaler := rfl
@[simp] theorem State.setGie_wdtArmed (s : State) (on : Bool) : (s.setGie on).wdtArmed = s.wdtArmed := rfl
@[simp] theorem State.setGie_holdoff (s : State) (on : Bool) : (s.setGie on).holdoff = s.holdoff := rfl
@[simp] theorem State.setGie_mode (s : State) (on : Bool) : (s.setGie on).mode = s.mode := rfl
@[simp] theorem State.setGie_cfg (s : State) (on : Bool) : (s.setGie on).cfg = s.cfg := rfl
@[simp] theorem State.setGie_turns (s : State) (on : Bool) : (s.setGie on).turns = s.turns := rfl
@[simp] theorem State.setGie_draws (s : State) (on : Bool) : (s.setGie on).draws = s.draws := rfl
@[simp] theorem State.setGie_cycles (s : State) (on : Bool) : (s.setGie on).cycles = s.cycles := rfl
@[simp] theorem State.setGie_flagC (s : State) (on : Bool) : (s.setGie on).flagC = s.flagC := rfl
@[simp] theorem State.setGie_flagDC (s : State) (on : Bool) : (s.setGie on).flagDC = s.flagDC := rfl
@[simp] theorem State.setGie_flagZ (s : State) (on : Bool) : (s.setGie on).flagZ = s.flagZ := rfl
@[simp] theorem State.setGie_flagPD (s : State) (on : Bool) : (s.setGie on).flagPD = s.flagPD := rfl
@[simp] theorem State.setGie_flagTO (s : State) (on : Bool) : (s.setGie on).flagTO = s.flagTO := rfl
@[simp] theorem State.setGie_bank (s : State) (on : Bool) : (s.setGie on).bank = s.bank := rfl
@[simp] theorem State.setGie_irp (s : State) (on : Bool) : (s.setGie on).irp = s.irp := rfl
@[simp] theorem State.setGie_prescalerOnTimer0 (s : State) (on : Bool) : (s.setGie on).prescalerOnTimer0 = s.prescalerOnTimer0 := rfl
@[simp] theorem State.setGie_classOf (s : State) (on : Bool) (addr : DataAddr) : (s.setGie on).classOf addr = s.classOf addr := rfl

/-! ### writeStatus -/

@[simp] theorem writeStatus_w (v : Byte) (aff : FlagSet) (s : State) : (writeStatus v aff s).w = s.w := rfl
@[simp] theorem writeStatus_pc (v : Byte) (aff : FlagSet) (s : State) : (writeStatus v aff s).pc = s.pc := rfl
@[simp] theorem writeStatus_stack (v : Byte) (aff : FlagSet) (s : State) : (writeStatus v aff s).stack = s.stack := rfl
@[simp] theorem writeStatus_stale (v : Byte) (aff : FlagSet) (s : State) : (writeStatus v aff s).stale = s.stale := rfl
@[simp] theorem writeStatus_status (v : Byte) (aff : FlagSet) (s : State) : (writeStatus v aff s).status = statusWritten v aff s := rfl
@[simp] theorem writeStatus_pclath (v : Byte) (aff : FlagSet) (s : State) : (writeStatus v aff s).pclath = s.pclath := rfl
@[simp] theorem writeStatus_fsr (v : Byte) (aff : FlagSet) (s : State) : (writeStatus v aff s).fsr = s.fsr := rfl
@[simp] theorem writeStatus_intcon (v : Byte) (aff : FlagSet) (s : State) : (writeStatus v aff s).intcon = s.intcon := rfl
@[simp] theorem writeStatus_optionReg (v : Byte) (aff : FlagSet) (s : State) : (writeStatus v aff s).optionReg = s.optionReg := rfl
@[simp] theorem writeStatus_tmr0 (v : Byte) (aff : FlagSet) (s : State) : (writeStatus v aff s).tmr0 = s.tmr0 := rfl
@[simp] theorem writeStatus_ram (v : Byte) (aff : FlagSet) (s : State) : (writeStatus v aff s).ram = s.ram := rfl
@[simp] theorem writeStatus_prog (v : Byte) (aff : FlagSet) (s : State) : (writeStatus v aff s).prog = s.prog := rfl
@[simp] theorem writeStatus_outputs (v : Byte) (aff : FlagSet) (s : State) : (writeStatus v aff s).outputs = s.outputs := rfl
@[simp] theorem writeStatus_wdt (v : Byte) (aff : FlagSet) (s : State) : (writeStatus v aff s).wdt = s.wdt := rfl
@[simp] theorem writeStatus_prescaler (v : Byte) (aff : FlagSet) (s : State) : (writeStatus v aff s).prescaler = s.prescaler := rfl
@[simp] theorem writeStatus_wdtArmed (v : Byte) (aff : FlagSet) (s : State) : (writeStatus v aff s).wdtArmed = s.wdtArmed := rfl
@[simp] theorem writeStatus_holdoff (v : Byte) (aff : FlagSet) (s : State) : (writeStatus v aff s).holdoff = s.holdoff := rfl
@[simp] theorem writeStatus_mode (v : Byte) (aff : FlagSet) (s : State) : (writeStatus v aff s).mode = s.mode := rfl
@[simp] theorem writeStatus_cfg (v : Byte) (aff : FlagSet) (s : State) : (writeStatus v aff s).cfg = s.cfg := rfl
@[simp] theorem writeStatus_turns (v : Byte) (aff : FlagSet) (s : State) : (writeStatus v aff s).turns = s.turns := rfl
@[simp] theorem writeStatus_draws (v : Byte) (aff : FlagSet) (s : State) : (writeStatus v aff s).draws = s.draws := rfl
@[simp] theorem writeStatus_cycles (v : Byte) (aff : FlagSet) (s : State) : (writeStatus v aff s).cycles = s.cycles := rfl
@[simp] theorem writeStatus_gie (v : Byte) (aff : FlagSet) (s : State) : (writeStatus v aff s).gie = s.gie := rfl
@[simp] theorem writeStatus_prescalerOnTimer0 (v : Byte) (aff : FlagSet) (s : State) : (writeStatus v aff s).prescalerOnTimer0 = s.prescalerOnTimer0 := rfl
@[simp] theorem writeStatus_classOf (v : Byte) (aff : FlagSet) (s : State) (addr : DataAddr) : (writeStatus v aff s).classOf addr = s.classOf addr := rfl

/-! ### affectFlags -/

@[simp] theorem affectFlags_w (aff : FlagSet) (r : AluResult) (s : State) : (affectFlags aff r s).w = s.w := rfl
@[simp] theorem affectFlags_pc (aff : FlagSet) (r : AluResult) (s : State) : (affectFlags aff r s).pc = s.pc := rfl
@[simp] theorem affectFlags_stack (aff : FlagSet) (r : AluResult) (s : State) : (affectFlags aff r s).stack = s.stack := rfl
@[simp] theorem affectFlags_stale (aff : FlagSet) (r : AluResult) (s : State) : (affectFlags aff r s).stale = s.stale := rfl
@[simp] theorem affectFlags_status (aff : FlagSet) (r : AluResult) (s : State) : (affectFlags aff r s).status = statusAffected aff r s := rfl
@[simp] theorem affectFlags_pclath (aff : FlagSet) (r : AluResult) (s : State) : (affectFlags aff r s).pclath = s.pclath := rfl
@[simp] theorem affectFlags_fsr (aff : FlagSet) (r : AluResult) (s : State) : (affectFlags aff r s).fsr = s.fsr := rfl
@[simp] theorem affectFlags_intcon (aff : FlagSet) (r : AluResult) (s : State) : (affectFlags aff r s).intcon = s.intcon := rfl
@[simp] theorem affectFlags_optionReg (aff : FlagSet) (r : AluResult) (s : State) : (affectFlags aff r s).optionReg = s.optionReg := rfl
@[simp] theorem affectFlags_tmr0 (aff : FlagSet) (r : AluResult) (s : State) : (affectFlags aff r s).tmr0 = s.tmr0 := rfl
@[simp] theorem affectFlags_ram (aff : FlagSet) (r : AluResult) (s : State) : (affectFlags aff r s).ram = s.ram := rfl
@[simp] theorem affectFlags_prog (aff : FlagSet) (r : AluResult) (s : State) : (affectFlags aff r s).prog = s.prog := rfl
@[simp] theorem affectFlags_outputs (aff : FlagSet) (r : AluResult) (s : State) : (affectFlags aff r s).outputs = s.outputs := rfl
@[simp] theorem affectFlags_wdt (aff : FlagSet) (r : AluResult) (s : State) : (affectFlags aff r s).wdt = s.wdt := rfl
@[simp] theorem affectFlags_prescaler (aff : FlagSet) (r : AluResult) (s : State) : (affectFlags aff r s).prescaler = s.prescaler := rfl
@[simp] theorem affectFlags_wdtArmed (aff : FlagSet) (r : AluResult) (s : State) : (affectFlags aff r s).wdtArmed = s.wdtArmed := rfl
@[simp] theorem affectFlags_holdoff (aff : FlagSet) (r : AluResult) (s : State) : (affectFlags aff r s).holdoff = s.holdoff := rfl
@[simp] theorem affectFlags_mode (aff : FlagSet) (r : AluResult) (s : State) : (affectFlags aff r s).mode = s.mode := rfl
@[simp] theorem affectFlags_cfg (aff : FlagSet) (r : AluResult) (s : State) : (affectFlags aff r s).cfg = s.cfg := rfl
@[simp] theorem affectFlags_turns (aff : FlagSet) (r : AluResult) (s : State) : (affectFlags aff r s).turns = s.turns := rfl
@[simp] theorem affectFlags_draws (aff : FlagSet) (r : AluResult) (s : State) : (affectFlags aff r s).draws = s.draws := rfl
@[simp] theorem affectFlags_cycles (aff : FlagSet) (r : AluResult) (s : State) : (affectFlags aff r s).cycles = s.cycles := rfl
@[simp] theorem affectFlags_gie (aff : FlagSet) (r : AluResult) (s : State) : (affectFlags aff r s).gie = s.gie := rfl
@[simp] theorem affectFlags_prescalerOnTimer0 (aff : FlagSet) (r : AluResult) (s : State) : (affectFlags aff r s).prescalerOnTimer0 = s.prescalerOnTimer0 := rfl
@[simp] theorem affectFlags_classOf (aff : FlagSet) (r : AluResult) (s : State) (addr : DataAddr) : (affectFlags aff r s).classOf addr = s.classOf addr := rfl

/-! ### State.drawByte -/

@[simp] theorem State.drawByte_fst (s : State) : s.drawByte.1 = Config.freeByte s.draws := rfl
@[simp] theorem State.drawByte_snd (s : State) : s.drawByte.2 = s.countDraws 1 := rfl

end Sys2Proof.Machine
end

