-- ==== Sys2Proof/Laws/Flags.lean ====
section
/-! SUPPORT. What STATUS holds after it is packed, written and affected; what the arithmetic of spec/10_state.md R17 and
R18 computes, in natural numbers. -/

namespace Sys2Proof.Machine

/-! ### STATUS -/

section
variable (k : BitVec 3) (to' pd z dc c : Bool)

@[simp] theorem packStatus_bankBits : (packStatus k to' pd z dc c).extractLsb' 5 3 = k := by
  revert k to' pd z dc c; decide

@[simp] theorem packStatus_to : (packStatus k to' pd z dc c).getLsbD bitTO = to' := by
  revert k to' pd z dc c; decide

@[simp] theorem packStatus_pd : (packStatus k to' pd z dc c).getLsbD bitPD = pd := by
  revert k to' pd z dc c; decide

@[simp] theorem packStatus_z : (packStatus k to' pd z dc c).getLsbD bitZ = z := by
  revert k to' pd z dc c; decide

@[simp] theorem packStatus_dc : (packStatus k to' pd z dc c).getLsbD bitDC = dc := by
  revert k to' pd z dc c; decide

@[simp] theorem packStatus_c : (packStatus k to' pd z dc c).getLsbD bitC = c := by
  revert k to' pd z dc c; decide

end

/-- STATUS is its parts packed (R19). -/
theorem status_eq_pack (s : State) :
    s.status = packStatus (s.status.extractLsb' 5 3) s.flagTO s.flagPD s.flagZ s.flagDC s.flagC := by
  have h : ∀ v : Byte, v = packStatus (v.extractLsb' 5 3) (v.getLsbD bitTO) (v.getLsbD bitPD) (v.getLsbD bitZ)
      (v.getLsbD bitDC) (v.getLsbD bitC) := by decide
  exact h s.status

section
variable (v : Byte) (aff : FlagSet) (r : AluResult) (s : State)

@[simp] theorem writeStatus_bankBits : (statusWritten v aff s).extractLsb' 5 3 = v.extractLsb' 5 3 := by
  unfold statusWritten; split <;> simp

@[simp] theorem writeStatus_flagTO : (writeStatus v aff s).flagTO = s.flagTO := by
  simp only [State.flagTO, writeStatus_status, statusWritten]; split <;> simp

@[simp] theorem writeStatus_flagPD : (writeStatus v aff s).flagPD = s.flagPD := by
  simp only [State.flagPD, writeStatus_status, statusWritten]; split <;> simp

@[simp] theorem writeStatus_flagZ :
    (writeStatus v aff s).flagZ = if aff = FlagSet.none then v.getLsbD bitZ else s.flagZ := by
  simp only [State.flagZ, writeStatus_status, statusWritten]; split <;> simp

@[simp] theorem writeStatus_flagDC :
    (writeStatus v aff s).flagDC = if aff = FlagSet.none then v.getLsbD bitDC else s.flagDC := by
  simp only [State.flagDC, writeStatus_status, statusWritten]; split <;> simp

@[simp] theorem writeStatus_flagC :
    (writeStatus v aff s).flagC = if aff = FlagSet.none then v.getLsbD bitC else s.flagC := by
  simp only [State.flagC, writeStatus_status, statusWritten]; split <;> simp

@[simp] theorem affectFlags_bankBits : (statusAffected aff r s).extractLsb' 5 3 = s.status.extractLsb' 5 3 := by
  simp [statusAffected]

@[simp] theorem affectFlags_flagTO : (affectFlags aff r s).flagTO = s.flagTO := by
  simp [State.flagTO, statusAffected]

@[simp] theorem affectFlags_flagPD : (affectFlags aff r s).flagPD = s.flagPD := by
  simp [State.flagPD, statusAffected]

@[simp] theorem affectFlags_flagZ : (affectFlags aff r s).flagZ = if aff.z then r.z else s.flagZ := by
  simp [State.flagZ, statusAffected]

@[simp] theorem affectFlags_flagDC : (affectFlags aff r s).flagDC = if aff.dc then r.dc else s.flagDC := by
  simp [State.flagDC, statusAffected]

@[simp] theorem affectFlags_flagC : (affectFlags aff r s).flagC = if aff.c then r.c else s.flagC := by
  simp [State.flagC, statusAffected]

/-- TO and PD in their places, the other six bits of STATUS kept. -/
theorem setTimeoutBits_status (timeOut powerDown : Bool) (s : State) : (s.setTimeoutBits timeOut powerDown).status =
    s.status &&& 0xE7#8 ||| (if timeOut then 0x10#8 else 0x00#8) ||| (if powerDown then 0x08#8 else 0x00#8) := by
  have h : ∀ (t p : Bool) (v : Byte), packStatus (v.extractLsb' 5 3) t p (v.getLsbD bitZ) (v.getLsbD bitDC)
      (v.getLsbD bitC) = v &&& 0xE7#8 ||| (if t then 0x10#8 else 0x00#8) ||| (if p then 0x08#8 else 0x00#8) := by decide
  exact h timeOut powerDown s.status

/-- An instruction that affects no flag leaves the whole state. -/
@[simp] theorem affectFlags_none : affectFlags FlagSet.none r s = s := by
  have h : statusAffected FlagSet.none r s = s.status := by
    simp [statusAffected, FlagSet.none, ← status_eq_pack]
  simp [affectFlags, h]

end

/-! ### Addition and subtraction -/

theorem testBit_eq_decide_of_lt (n k : Nat) (h : n < 2 ^ (k + 1)) : n.testBit k = decide (2 ^ k ≤ n) := by
  rw [Bool.eq_iff_iff, decide_eq_true_iff]
  constructor
  · exact Nat.ge_two_pow_of_testBit
  · intro hk
    rw [Nat.testBit_eq_decide_div_mod_eq, decide_eq_true_iff]
    have : n / 2 ^ k = 1 := by
      rw [Nat.div_eq_iff (Nat.two_pow_pos k)]
      constructor <;> omega
    omega

theorem low_nibble_toNat (a : Byte) : (a.extractLsb' 0 4).toNat = a.toNat % 16 := by
  simp [BitVec.extractLsb'_toNat]

theorem add8_val (a b : Byte) : (add8 a b).val = a + b := by
  apply BitVec.eq_of_toNat_eq
  simp [add8]

/-- "C = s[8] (1 iff a + b > 255)" (R17). -/
theorem add8_c (a b : Byte) : (add8 a b).c = decide (255 < a.toNat + b.toNat) := by
  simp only [add8]
  rw [testBit_eq_decide_of_lt _ 8 (by omega)]
  congr 1

/-- "DC: 1 iff the low nibbles sum above 15" (R17). -/
theorem add8_dc (a b : Byte) : (add8 a b).dc = decide (15 < a.toNat % 16 + b.toNat % 16) := by
  simp only [add8, low_nibble_toNat]
  rw [testBit_eq_decide_of_lt _ 4 (by omega)]
  congr 1

theorem toNat_not_byte (b : Byte) : (~~~b).toNat = 255 - b.toNat := by simp [BitVec.toNat_not]

theorem sub8_val (a b : Byte) : (sub8 a b).val = a - b := by
  apply BitVec.eq_of_toNat_eq
  simp only [sub8, toNat_not_byte, BitVec.toNat_ofNat, BitVec.toNat_sub]
  omega

/-- "C: 1 iff a >= b unsigned: no borrow" (R18). -/
theorem sub8_c (a b : Byte) : (sub8 a b).c = decide (b.toNat ≤ a.toNat) := by
  simp only [sub8, toNat_not_byte]
  rw [testBit_eq_decide_of_lt _ 8 (by omega), decide_eq_decide]
  omega

/-- "DC: 1 iff a[3:0] >= b[3:0]: no borrow from bit 4" (R18). -/
theorem sub8_dc (a b : Byte) : (sub8 a b).dc = decide (b.toNat % 16 ≤ a.toNat % 16) := by
  simp only [sub8, low_nibble_toNat, toNat_not_byte]
  rw [testBit_eq_decide_of_lt _ 4 (by omega), decide_eq_decide]
  omega

end Sys2Proof.Machine
end

