-- ==== Sys2Proof/Laws/Operands.lean ====
section
/-! SUPPORT. What the shared shapes of operation do, said once: each answers a next state that an effect describes
field by field (or, for the skips, the refusal of R22). -/

namespace Sys2Proof.Machine

@[simp] theorem FileClass.isDevice_indf : FileClass.indf.isDevice = false := rfl
@[simp] theorem FileClass.isDevice_pcl : FileClass.pcl.isDevice = false := rfl
@[simp] theorem FileClass.isDevice_status : FileClass.status.isDevice = false := rfl
@[simp] theorem FileClass.isDevice_fsr : FileClass.fsr.isDevice = false := rfl
@[simp] theorem FileClass.isDevice_pclath : FileClass.pclath.isDevice = false := rfl
@[simp] theorem FileClass.isDevice_intcon : FileClass.intcon.isDevice = false := rfl
@[simp] theorem FileClass.isDevice_ram (c : Nat) : (FileClass.ram c).isDevice = false := rfl
@[simp] theorem FileClass.isDevice_tmr0 : FileClass.tmr0.isDevice = true := rfl
@[simp] theorem FileClass.isDevice_optionReg : FileClass.optionReg.isDevice = true := rfl
@[simp] theorem FileClass.isDevice_device : FileClass.device.isDevice = true := rfl

/-- A read changes nothing but the count of free values, and that only at a device-class address. -/
theorem dataRead_state (a : DataAddr) (s : State) :
    (dataRead a s).2 = s.countDraws (if (s.classOf a).isDevice then 1 else 0) := by
  unfold dataRead
  cases s.classOf a <;> rfl

/-- A write to a RAM cell changes that cell and no other. -/
theorem ramRead_write (m : List Host.Cell) (c x : Nat) (v : Byte) :
    ramRead (ramWrite m c v) x = if c = x then v else ramRead m x := by
  split
  · simp_all
  · exact ramRead_write_other m v (Ne.symm ‹_›)

/-- Storing a byte, retiring `n` cycles and writing the flags, after a read of the same address or none. -/
theorem stored_effect (s : State) (a : DataAddr) (d : Dest) (reads : Bool) (r : AluResult) (aff : FlagSet) (n : Nat)
    (next : CodeAddr) (s1 : State) (h : s1 = if reads then (dataRead a s).2 else s) :
    Effect.Full
      { addr := a, reads := reads, toW := if d = .w then some r.val else none, toF := if d = .f then some r.val else none,
        aff := aff, c := r.c, dc := r.dc, z := r.z, next := next, cycles := n }
      s (affectFlags aff r (storeDest a d r.val aff ((s1.retire n).setPc next))) := by
  have h1 : s1 = s.countDraws (if reads && (s.classOf a).isDevice then 1 else 0) := by
    subst h
    cases reads
    · rfl
    · simp [dataRead_state]
  subst h1
  clear h
  cases d
  · refine ⟨?_, by simp [storeDest], by simp [storeDest]⟩
    constructor <;> simp [storeDest, Effect.writes]
    split <;> simp
  · cases hk : s.classOf a <;> cases reads <;>
      refine ⟨?_, by simp [storeDest, dataWrite, hk], by simp [storeDest, dataWrite, hk]⟩ <;>
      (constructor <;>
        simp [storeDest, dataWrite, Effect.writes, Effect.byte, hk, ramRead_write, bitZ, bitDC, bitC,
          State.prescalerOnTimer0, bitPSA])

theorem readModifyStore_eq (f : FileNo) (d : Dest) (aff : FlagSet) (op : Byte → AluResult) (s : State) :
    readModifyStore f d aff op s = .next (affectFlags aff (op (fileValue f s))
      (storeDest (dataAddr f s) d (op (fileValue f s)).val aff
        (((dataRead (dataAddr f s) s).2.retire (destCycles (dataAddr f s) d s)).setPc (s.pc + 1)))) := by
  have hpc : (dataRead (dataAddr f s) s).2.pc = s.pc := by simp [dataRead_state]
  rw [← hpc]
  rfl

/-- An instruction that reads `f`, computes and stores completes, with the effect of its result. -/
theorem readModifyStore_effect (f : FileNo) (d : Dest) (aff : FlagSet) (op : Byte → AluResult) (s : State) :
    ∃ t, readModifyStore f d aff op s = .next t ∧
      (destEffect f d s (op (fileValue f s)).val aff (op (fileValue f s)).c (op (fileValue f s)).dc).Full s t := by
  refine ⟨_, readModifyStore_eq f d aff op s, ?_⟩
  have h := stored_effect s (dataAddr f s) d true (op (fileValue f s)) aff (destCycles (dataAddr f s) d s) (s.pc + 1)
    _ rfl
  have hz : ∀ r : AluResult, r.z = decide (r.val = 0x00#8) := fun r => rfl
  simpa [destEffect, destCycles, writesPcl, hz] using h

/-- An instruction that writes `f` without reading it completes, with the effect of its value. -/
theorem storeOnly_effect (f : FileNo) (aff : FlagSet) (v : Byte) (s : State) :
    ∃ t, storeOnly f aff (plain v) s = .next t ∧ (storeEffect f s v aff).Full s t := by
  refine ⟨_, rfl, ?_⟩
  have h := stored_effect s (dataAddr f s) .f false (plain v) aff (destCycles (dataAddr f s) .f s) (s.pc + 1) s rfl
  have hz : (plain v).z = decide (v = 0x00#8) := rfl
  have hv : (plain v).val = v := rfl
  have hc : (plain v).c = false := rfl
  have hdc : (plain v).dc = false := rfl
  simpa [storeEffect, destCycles, writesPcl, hz, hv, State.advance, storeDest, hc, hdc] using h

/-- An instruction that writes W and flags completes, with the effect of its result. -/
theorem storeW_effect (aff : FlagSet) (r : AluResult) (s : State) :
    ∃ t, storeW aff r s = .next t ∧ (wEffect s r.val aff r.c r.dc).Full s t := by
  refine ⟨_, rfl, ?_⟩
  have h := stored_effect s 0 .w false r aff 1 (s.pc + 1) s rfl
  have hz : r.z = decide (r.val = 0x00#8) := rfl
  simpa [wEffect, hz, State.advance, storeDest] using h

theorem storeAndSkip_eq (f : FileNo) (d : Dest) (op : Byte → Byte) (s : State)
    (h : writesPcl (dataAddr f s) d s = false) :
    storeAndSkip f d op s = .next (storeDest (dataAddr f s) d (op (fileValue f s)) FlagSet.none
      (((dataRead (dataAddr f s) s).2.retire (if op (fileValue f s) = 0x00#8 then 2 else 1)).setPc
        (if op (fileValue f s) = 0x00#8 then s.pc + 2 else s.pc + 1))) := by
  have hpc : (dataRead (dataAddr f s) s).2.pc = s.pc := by simp [dataRead_state]
  have hb : ∀ x : Byte, (x == 0x00#8) = decide (x = 0x00#8) := fun _ => rfl
  rw [← hpc]
  simp only [storeAndSkip, h, State.skipIf, hb, decide_eq_true_eq, fileValue]
  rfl

/-- INCFSZ and DECFSZ: refused where the operand resolves to PCL and is the destination (R22); otherwise the effect of
storing the result, and the skip when it is zero (R101). -/
theorem storeAndSkip_effect (f : FileNo) (d : Dest) (op : Byte → Byte) (s : State) :
    if d = .f ∧ s.classOf (dataAddr f s) = .pcl then storeAndSkip f d op s = .refused (.skipWritesPcl s.pc)
    else ∃ t, storeAndSkip f d op s = .next t ∧
      Effect.Full
        { destEffect f d s (op (fileValue f s)) FlagSet.none false false with
          next := if op (fileValue f s) = 0x00#8 then s.pc + 2 else s.pc + 1
          cycles := if op (fileValue f s) = 0x00#8 then 2 else 1 } s t := by
  split
  · rename_i hp
    simp [storeAndSkip, writesPcl, hp]
  · rename_i hp
    have hw : writesPcl (dataAddr f s) d s = false := by simpa [writesPcl] using hp
    have h := stored_effect s (dataAddr f s) d true (plain (op (fileValue f s))) FlagSet.none
      (if op (fileValue f s) = 0x00#8 then 2 else 1)
      (if op (fileValue f s) = 0x00#8 then s.pc + 2 else s.pc + 1) _ rfl
    refine ⟨_, storeAndSkip_eq f d op s hw, ?_⟩
    rw [affectFlags_none] at h
    exact h

theorem testBitAndSkip_eq (f : FileNo) (b : Nat) (value : Bool) (s : State) :
    testBitAndSkip f b value s = .next
      (((dataRead (dataAddr f s) s).2.retire (if (fileValue f s).getLsbD b = value then 2 else 1)).setPc
        (if (fileValue f s).getLsbD b = value then s.pc + 2 else s.pc + 1)) := by
  have hpc : (dataRead (dataAddr f s) s).2.pc = s.pc := by simp [dataRead_state]
  rw [← hpc]
  simp only [testBitAndSkip, State.skipIf, fileValue, beq_iff_eq]
  rfl

/-- BTFSC and BTFSS: nothing is written, and the skip is taken when the bit is the one asked for. -/
theorem testBitAndSkip_effect (f : FileNo) (b : Nat) (value : Bool) (s : State) :
    ∃ t, testBitAndSkip f b value s = .next t ∧
      Effect.Full
        { addr := dataAddr f s
          reads := true
          next := if (fileValue f s).getLsbD b = value then s.pc + 2 else s.pc + 1
          cycles := if (fileValue f s).getLsbD b = value then 2 else 1 } s t := by
  refine ⟨_, testBitAndSkip_eq f b value s, ?_⟩
  rw [dataRead_state]
  refine ⟨?_, by simp, by simp⟩
  constructor <;> simp [Effect.writes, FlagSet.none]
  split <;> simp

end Sys2Proof.Machine
end

