-- ==== Sys2Proof/Laws/Stack.lean ====
section
/-! SUPPORT. What `Push` and `Pop` do (spec/10_state.md R15), said once, and that a pop undoes a push. -/

namespace Sys2Proof.Machine

/-- A push that succeeds puts the address on top; below the depth limit the rest of the stack stays. -/
theorem push_cases {v : CodeAddr} {s t : State} (h : push v s = some t) :
    (s.stack.length < stackDepth ∧ t = { s with stack := v :: s.stack, stale := s.stale.dropLast }) ∨
      (stackDepth ≤ s.stack.length ∧ s.cfg.stackWrap = .circular ∧ t = { s with stack := v :: s.stack.dropLast }) := by
  unfold push at h
  split at h
  · exact .inl ⟨‹_›, (Option.some.inj h).symm⟩
  · split at h
    · cases h
    · exact .inr ⟨by omega, ‹_›, (Option.some.inj h).symm⟩

/-- A pop that succeeds answers the top of the stack, or, with STACK_WRAP = circular, a stale entry of an empty one. -/
theorem pop_cases {a : CodeAddr} {s t : State} (h : pop s = some (a, t)) :
    (∃ rest, s.stack = a :: rest ∧ t = { s with stack := rest, stale := s.stale ++ [a] }) ∨
      (∃ rest, s.stack = [] ∧ s.cfg.stackWrap = .circular ∧ s.stale = a :: rest ∧
        t = { s with stale := rest ++ [a] }) := by
  unfold pop at h
  split at h
  · rename_i v rest hs
    obtain ⟨rfl, rfl⟩ := Prod.mk.inj (Option.some.inj h)
    exact .inl ⟨rest, hs, rfl⟩
  · rename_i hs
    split at h
    · cases h
    · rename_i hc
      split at h
      · rename_i v rest hst
        obtain ⟨rfl, rfl⟩ := Prod.mk.inj (Option.some.inj h)
        exact .inr ⟨rest, hs, hc, hst, rfl⟩
      · cases h

/-- A push below the depth limit succeeds. -/
theorem push_of_lt {v : CodeAddr} {s : State} (h : s.stack.length < stackDepth) :
    push v s = some { s with stack := v :: s.stack, stale := s.stale.dropLast } := by simp [push, h]

/-- A pop of a stack that holds an entry succeeds with the top one. -/
theorem pop_of_cons {v : CodeAddr} {rest : List CodeAddr} {s : State} (h : s.stack = v :: rest) :
    pop s = some (v, { s with stack := rest, stale := s.stale ++ [v] }) := by simp [pop, h]

end Sys2Proof.Machine
end

