-- ==== Sys2Proof/Laws/Exec.lean ====
section
/-! SUPPORT. What an instruction can do, said once for all 35: the seven control operations each have a next state of
their own, every other instruction completes with an effect whose parts follow the columns of the opcode table. -/

namespace Sys2Proof.Machine

/-- The "Status Affected" column of R75, for C, DC and Z. -/
def statusColumn (i : Instr) : FlagSet :=
  match i with
  | .addwf _ _ | .subwf _ _ | .addlw _ | .sublw _ => FlagSet.cdcz
  | .andwf _ _ | .clrf _ | .clrw | .comf _ _ | .decf _ _ | .incf _ _ | .iorwf _ _ | .movf _ _ | .xorwf _ _ | .andlw _
  | .iorlw _ | .xorlw _ => FlagSet.onlyZ
  | .rlf _ _ | .rrf _ _ => FlagSet.onlyC
  | .decfsz _ _ | .incfsz _ _ | .movwf _ | .nop | .swapf _ _ | .bcf _ _ | .bsf _ _ | .btfsc _ _ | .btfss _ _ | .call _
  | .clrwdt | .goto _ | .movlw _ | .retfie | .retlw _ | .retn | .sleep => FlagSet.none

/-- The instruction's destination is W. -/
def destIsW (i : Instr) : Bool :=
  match i with
  | .addwf _ d | .andwf _ d | .comf _ d | .decf _ d | .decfsz _ d | .incf _ d | .incfsz _ d | .iorwf _ d | .movf _ d
  | .rlf _ d | .rrf _ d | .subwf _ d | .swapf _ d | .xorwf _ d => decide (d = .w)
  | .clrw | .addlw _ | .andlw _ | .iorlw _ | .movlw _ | .retlw _ | .sublw _ | .xorlw _ => true
  | .clrf _ | .movwf _ | .nop | .bcf _ _ | .bsf _ _ | .btfsc _ _ | .btfss _ _ | .call _ | .clrwdt | .goto _ | .retfie
  | .retn | .sleep => false

/-- The four skipping instructions. -/
def canSkip (i : Instr) : Bool :=
  match i with
  | .decfsz _ _ | .incfsz _ _ | .btfsc _ _ | .btfss _ _ => true
  | .addwf _ _ | .andwf _ _ | .clrf _ | .clrw | .comf _ _ | .decf _ _ | .incf _ _ | .iorwf _ _ | .movf _ _ | .movwf _
  | .nop | .rlf _ _ | .rrf _ _ | .subwf _ _ | .swapf _ _ | .xorwf _ _ | .bcf _ _ | .bsf _ _ | .addlw _ | .andlw _
  | .call _ | .clrwdt | .goto _ | .iorlw _ | .movlw _ | .retfie | .retlw _ | .retn | .sleep | .sublw _ | .xorlw _ =>
    false

/-- The seven control operations. -/
def isControl (i : Instr) : Bool :=
  match i with
  | .call _ | .clrwdt | .goto _ | .retfie | .retlw _ | .retn | .sleep => true
  | .addwf _ _ | .andwf _ _ | .clrf _ | .clrw | .comf _ _ | .decf _ _ | .decfsz _ _ | .incf _ _ | .incfsz _ _
  | .iorwf _ _ | .movf _ _ | .movwf _ | .nop | .rlf _ _ | .rrf _ _ | .subwf _ _ | .swapf _ _ | .xorwf _ _ | .bcf _ _
  | .bsf _ _ | .btfsc _ _ | .btfss _ _ | .addlw _ | .andlw _ | .iorlw _ | .movlw _ | .sublw _ | .xorlw _ => false

/-- The parts of an effect agree with what the opcode table and R52 say of the instruction. -/
structure Effect.Fits (e : Effect) (i : Instr) (s : State) : Prop where
  notControl : isControl i = false
  target : writeTarget i s = if e.toF.isSome then some e.addr else none
  byte : ∀ v, e.toF = some v → fileResult i s = some v
  toW : e.toW.isSome = destIsW i
  aff : e.aff = statusColumn i
  next : e.next = s.pc + 1 ∨ (canSkip i = true ∧ e.next = s.pc + 2)
  cycles : e.cycles = if canSkip i then (if e.next = s.pc + 2 then 2 else 1) else if e.writes s .pcl then 2 else 1
  skipsNotPcl : canSkip i = true → e.writes s .pcl = false

/-- The control operations: what CALL, GOTO, the returns, CLRWDT and SLEEP answer. -/
inductive ControlNext (s : State) : Instr → State → Prop where
  | call (k : BitVec 11) (t : State) (h : push (s.pc + 1) (s.retire 2) = some t) :
      ControlNext s (.call k) (t.setPc (s.jumpTarget k))
  | goto (k : BitVec 11) : ControlNext s (.goto k) ((s.retire 2).setPc (s.jumpTarget k))
  | retn (a : CodeAddr) (t : State) (h : pop (s.retire 2) = some (a, t)) : ControlNext s .retn (t.setPc a)
  | retlw (k : Byte) (a : CodeAddr) (t : State) (h : pop ((s.setW k).retire 2) = some (a, t)) :
      ControlNext s (.retlw k) (t.setPc a)
  | retfie (a : CodeAddr) (t : State) (h : pop (s.retire 2) = some (a, t)) :
      ControlNext s .retfie ((t.setPc a).setGie true)
  | clrwdt : ControlNext s .clrwdt ((s.retire 1).advance.clearWatchdog.setTimeoutBits true true)
  | sleep : ControlNext s .sleep { (s.retire 1).advance.clearWatchdog.setTimeoutBits true false with mode := .sleeping }

theorem pc_succ_ne_succ_succ (a : CodeAddr) : a + 1 ≠ a + 2 := by
  intro h
  have h1 := congrArg BitVec.toNat h
  simp only [BitVec.toNat_add] at h1
  have := a.isLt
  simp at h1
  omega

theorem destEffect_fits {i : Instr} {f : FileNo} {d : Dest} {s : State} {r : Byte} {aff : FlagSet} {c dc : Bool}
    (ht : writeTarget i s = if d = .f then some (dataAddr f s) else none) (hb : fileResult i s = some r)
    (hw : destIsW i = decide (d = .w)) (ha : aff = statusColumn i) (hs : canSkip i = false) (hc : isControl i = false) :
    (destEffect f d s r aff c dc).Fits i s := by
  cases d <;> constructor <;> simp_all [destEffect, Effect.writes]

theorem storeEffect_fits {i : Instr} {f : FileNo} {s : State} {r : Byte} {aff : FlagSet}
    (ht : writeTarget i s = some (dataAddr f s)) (hb : fileResult i s = some r) (hw : destIsW i = false)
    (ha : aff = statusColumn i) (hs : canSkip i = false) (hc : isControl i = false) :
    (storeEffect f s r aff).Fits i s := by
  constructor <;> simp_all [storeEffect, Effect.writes]

theorem wEffect_fits {i : Instr} {s : State} {r : Byte} {aff : FlagSet} {c dc : Bool} (ht : writeTarget i s = none)
    (hw : destIsW i = true) (ha : aff = statusColumn i) (hs : canSkip i = false) (hc : isControl i = false) :
    (wEffect s r aff c dc).Fits i s := by
  constructor <;> simp_all [wEffect, Effect.writes]

theorem skipEffect_fits {i : Instr} {f : FileNo} {d : Dest} {s : State} {r : Byte} (p : Prop) [Decidable p]
    (ht : writeTarget i s = if d = .f then some (dataAddr f s) else none) (hb : fileResult i s = some r)
    (hw : destIsW i = decide (d = .w)) (ha : FlagSet.none = statusColumn i) (hs : canSkip i = true)
    (hc : isControl i = false) (hp : ¬(d = .f ∧ s.classOf (dataAddr f s) = .pcl)) :
    Effect.Fits { destEffect f d s r FlagSet.none false false with
      next := if p then s.pc + 2 else s.pc + 1
      cycles := if p then 2 else 1 } i s := by
  have hne := pc_succ_ne_succ_succ s.pc
  cases d <;> constructor <;> simp_all [destEffect, Effect.writes] <;> by_cases p <;> simp_all

theorem testEffect_fits {i : Instr} {f : FileNo} {s : State} (p : Prop) [Decidable p] (ht : writeTarget i s = none)
    (hw : destIsW i = false) (ha : FlagSet.none = statusColumn i) (hs : canSkip i = true) (hc : isControl i = false) :
    Effect.Fits
      { addr := dataAddr f s, reads := true, next := if p then s.pc + 2 else s.pc + 1, cycles := if p then 2 else 1 }
      i s := by
  have hne := pc_succ_ne_succ_succ s.pc
  constructor <;> simp_all [Effect.writes]
  all_goals (by_cases p <;> simp_all)

/-- The three ways an outcome that an effect describes is the next state of an instruction. -/
theorem exec_of_effect {i : Instr} {s t : State} {o : Outcome} {e : Effect} (h : exec i s = .next t)
    (ho : exec i s = o) (he : ∃ u, o = .next u ∧ e.Full s u) (hf : e.Fits i s) :
    ∃ e : Effect, e.Full s t ∧ e.Fits i s := by
  obtain ⟨u, hu, hh⟩ := he
  rw [ho, hu] at h
  cases h
  exact ⟨e, hh, hf⟩

theorem exec_of_store {i : Instr} {s t : State} (f : FileNo) (d : Dest) (aff : FlagSet) (op : Byte → AluResult)
    (h : exec i s = .next t) (ho : exec i s = readModifyStore f d aff op s)
    (ht : writeTarget i s = if d = .f then some (dataAddr f s) else none)
    (hb : fileResult i s = some (op (fileValue f s)).val) (hw : destIsW i = decide (d = .w)) (ha : aff = statusColumn i)
    (hs : canSkip i = false) (hc : isControl i = false) :
    ∃ e : Effect, e.Full s t ∧ e.Fits i s :=
  exec_of_effect h ho (readModifyStore_effect f d aff op s) (destEffect_fits ht hb hw ha hs hc)

theorem exec_of_skip {i : Instr} {f : FileNo} {d : Dest} {op : Byte → Byte} {s t : State} (h : exec i s = .next t)
    (ho : exec i s = storeAndSkip f d op s)
    (ht : writeTarget i s = if d = .f then some (dataAddr f s) else none)
    (hb : fileResult i s = some (op (fileValue f s))) (hw : destIsW i = decide (d = .w))
    (ha : FlagSet.none = statusColumn i) (hs : canSkip i = true) (hc : isControl i = false) :
    ∃ e : Effect, e.Full s t ∧ e.Fits i s := by
  have he := storeAndSkip_effect f d op s
  split at he
  · rw [ho, he] at h
    cases h
  · rename_i hp
    exact exec_of_effect h ho he (skipEffect_fits _ ht hb hw ha hs hc hp)

/-- What an instruction that answers a next state did. -/
theorem exec_cases {i : Instr} {s t : State} (h : exec i s = .next t) :
    ControlNext s i t ∨ ∃ e : Effect, e.Full s t ∧ e.Fits i s := by
  cases i with
  | call k =>
    simp only [exec, execCall] at h
    split at h
    · cases h
    · cases h; exact .inl (.call k _ ‹_›)
  | goto k => cases h; exact .inl (.goto k)
  | retn =>
    simp only [exec, execRetn, popAndGo] at h
    split at h
    · cases h
    · cases h; exact .inl (.retn _ _ ‹_›)
  | retlw k =>
    simp only [exec, execRetlw, popAndGo] at h
    split at h
    · cases h
    · cases h; exact .inl (.retlw k _ _ ‹_›)
  | retfie =>
    simp only [exec, execRetfie, returnFromInterrupt] at h
    split at h
    · cases h
    · cases h; exact .inl (.retfie _ _ ‹_›)
  | clrwdt => cases h; exact .inl .clrwdt
  | sleep => cases h; exact .inl .sleep
  | nop =>
    cases h
    refine .inr ⟨{ next := s.pc + 1 }, ⟨?_, rfl, rfl⟩, ?_⟩ <;> constructor <;> simp [Effect.writes, FlagSet.none,
      writeTarget, destIsW, statusColumn, canSkip, isControl]
  | decfsz f d =>
    exact .inr (exec_of_skip (f := f) (d := d) (op := fun v => v - 1) h (Eq.refl _) rfl rfl rfl rfl rfl rfl)
  | incfsz f d =>
    exact .inr (exec_of_skip (f := f) (d := d) (op := fun v => v + 1) h (Eq.refl _) rfl rfl rfl rfl rfl rfl)
  | btfsc f b =>
    exact .inr (exec_of_effect h rfl (testBitAndSkip_effect f b false s)
      (testEffect_fits ((fileValue f s).getLsbD b = false) rfl rfl rfl rfl rfl))
  | btfss f b =>
    exact .inr (exec_of_effect h rfl (testBitAndSkip_effect f b true s)
      (testEffect_fits ((fileValue f s).getLsbD b = true) rfl rfl rfl rfl rfl))
  | clrf f => exact .inr (exec_of_effect h rfl (storeOnly_effect f _ _ s) (storeEffect_fits rfl rfl rfl rfl rfl rfl))
  | movwf f => exact .inr (exec_of_effect h rfl (storeOnly_effect f _ _ s) (storeEffect_fits rfl rfl rfl rfl rfl rfl))
  | bcf f b =>
    exact .inr (exec_of_effect h rfl (readModifyStore_effect f .f FlagSet.none (fun v => plain (clearBit v b)) s)
      (destEffect_fits (by simp [writeTarget]) rfl rfl rfl rfl rfl))
  | bsf f b =>
    exact .inr (exec_of_effect h rfl (readModifyStore_effect f .f FlagSet.none (fun v => plain (setBit v b)) s)
      (destEffect_fits (by simp [writeTarget]) rfl rfl rfl rfl rfl))
  | clrw => exact .inr (exec_of_effect h rfl (storeW_effect _ _ s) (wEffect_fits rfl rfl rfl rfl rfl))
  | addlw k => exact .inr (exec_of_effect h rfl (storeW_effect _ _ s) (wEffect_fits rfl rfl rfl rfl rfl))
  | andlw k => exact .inr (exec_of_effect h rfl (storeW_effect _ _ s) (wEffect_fits rfl rfl rfl rfl rfl))
  | iorlw k => exact .inr (exec_of_effect h rfl (storeW_effect _ _ s) (wEffect_fits rfl rfl rfl rfl rfl))
  | movlw k => exact .inr (exec_of_effect h rfl (storeW_effect _ _ s) (wEffect_fits rfl rfl rfl rfl rfl))
  | sublw k => exact .inr (exec_of_effect h rfl (storeW_effect _ _ s) (wEffect_fits rfl rfl rfl rfl rfl))
  | xorlw k => exact .inr (exec_of_effect h rfl (storeW_effect _ _ s) (wEffect_fits rfl rfl rfl rfl rfl))
  | addwf f d =>
    exact .inr (exec_of_store f d .cdcz (fun v => add8 s.w v) h rfl rfl (by rw [add8_val]; rfl) rfl rfl rfl rfl)
  | andwf f d => exact .inr (exec_of_store f d .onlyZ (fun v => plain (s.w &&& v)) h rfl rfl rfl rfl rfl rfl rfl)
  | comf f d => exact .inr (exec_of_store f d .onlyZ (fun v => plain (~~~v)) h rfl rfl rfl rfl rfl rfl rfl)
  | decf f d => exact .inr (exec_of_store f d .onlyZ (fun v => plain (v - 1)) h rfl rfl rfl rfl rfl rfl rfl)
  | incf f d => exact .inr (exec_of_store f d .onlyZ (fun v => plain (v + 1)) h rfl rfl rfl rfl rfl rfl rfl)
  | iorwf f d => exact .inr (exec_of_store f d .onlyZ (fun v => plain (s.w ||| v)) h rfl rfl rfl rfl rfl rfl rfl)
  | movf f d => exact .inr (exec_of_store f d .onlyZ (fun v => plain v) h rfl rfl rfl rfl rfl rfl rfl)
  | rlf f d => exact .inr (exec_of_store f d .onlyC (fun v => rotateLeft v s.flagC) h rfl rfl rfl rfl rfl rfl rfl)
  | rrf f d => exact .inr (exec_of_store f d .onlyC (fun v => rotateRight v s.flagC) h rfl rfl rfl rfl rfl rfl rfl)
  | subwf f d =>
    exact .inr (exec_of_store f d .cdcz (fun v => sub8 v s.w) h rfl rfl (by rw [sub8_val]; rfl) rfl rfl rfl rfl)
  | swapf f d => exact .inr (exec_of_store f d .none (fun v => plain (swapNibbles v)) h rfl rfl rfl rfl rfl rfl rfl)
  | xorwf f d => exact .inr (exec_of_store f d .onlyZ (fun v => plain (s.w ^^^ v)) h rfl rfl rfl rfl rfl rfl rfl)

end Sys2Proof.Machine
end

