-- ==== Sys2Proof/Laws/PerInstr.lean ====
section
/-! SUPPORT. Statements about every instruction, one lemma per constructor. -/

namespace Sys2Proof.Laws.EncodedRow

/-- The encoded word of an instruction belongs to its row of the opcode map (spec/30_encoding.md R75): its opcode bits
are the row's `match`. -/
def Statement (i : Instr) : Prop := encode i &&& rowMask i = rowMatch i

/-- Operand bits under a mask that is 0 on them disappear. -/
theorem masked {m n : Nat} (op opMask : BitVec m) (field : BitVec n) :
    (op ++ field) &&& (opMask ++ 0#n) = (op &&& opMask) ++ 0#n := by
  rw [BitVec.and_append]
  simp

theorem masked₂ {m n p : Nat} (op opMask : BitVec m) (x : BitVec n) (y : BitVec p) :
    (op ++ x ++ y) &&& (opMask ++ 0#n ++ 0#p) = (op &&& opMask) ++ 0#n ++ 0#p := by
  rw [masked, masked]

theorem addwf (f : FileNo) (d : Dest) : Statement (.addwf f d) := masked₂ 0b000111#6 0b111111#6 d.toBit f
theorem andwf (f : FileNo) (d : Dest) : Statement (.andwf f d) := masked₂ 0b000101#6 0b111111#6 d.toBit f
theorem clrf (f : FileNo) : Statement (.clrf f) := masked 0b0000011#7 0b1111111#7 f
theorem clrw : Statement (.clrw) := rfl
theorem comf (f : FileNo) (d : Dest) : Statement (.comf f d) := masked₂ 0b001001#6 0b111111#6 d.toBit f
theorem decf (f : FileNo) (d : Dest) : Statement (.decf f d) := masked₂ 0b000011#6 0b111111#6 d.toBit f
theorem decfsz (f : FileNo) (d : Dest) : Statement (.decfsz f d) := masked₂ 0b001011#6 0b111111#6 d.toBit f
theorem incf (f : FileNo) (d : Dest) : Statement (.incf f d) := masked₂ 0b001010#6 0b111111#6 d.toBit f
theorem incfsz (f : FileNo) (d : Dest) : Statement (.incfsz f d) := masked₂ 0b001111#6 0b111111#6 d.toBit f
theorem iorwf (f : FileNo) (d : Dest) : Statement (.iorwf f d) := masked₂ 0b000100#6 0b111111#6 d.toBit f
theorem movf (f : FileNo) (d : Dest) : Statement (.movf f d) := masked₂ 0b001000#6 0b111111#6 d.toBit f
theorem movwf (f : FileNo) : Statement (.movwf f) := masked 0b0000001#7 0b1111111#7 f
theorem nop : Statement (.nop) := rfl
theorem rlf (f : FileNo) (d : Dest) : Statement (.rlf f d) := masked₂ 0b001101#6 0b111111#6 d.toBit f
theorem rrf (f : FileNo) (d : Dest) : Statement (.rrf f d) := masked₂ 0b001100#6 0b111111#6 d.toBit f
theorem subwf (f : FileNo) (d : Dest) : Statement (.subwf f d) := masked₂ 0b000010#6 0b111111#6 d.toBit f
theorem swapf (f : FileNo) (d : Dest) : Statement (.swapf f d) := masked₂ 0b001110#6 0b111111#6 d.toBit f
theorem xorwf (f : FileNo) (d : Dest) : Statement (.xorwf f d) := masked₂ 0b000110#6 0b111111#6 d.toBit f
theorem bcf (f : FileNo) (b : Nat) : Statement (.bcf f b) := masked₂ 0b0100#4 0b1111#4 (bitField b) f
theorem bsf (f : FileNo) (b : Nat) : Statement (.bsf f b) := masked₂ 0b0101#4 0b1111#4 (bitField b) f
theorem btfsc (f : FileNo) (b : Nat) : Statement (.btfsc f b) := masked₂ 0b0110#4 0b1111#4 (bitField b) f
theorem btfss (f : FileNo) (b : Nat) : Statement (.btfss f b) := masked₂ 0b0111#4 0b1111#4 (bitField b) f
theorem addlw (k : Byte) : Statement (.addlw k) := masked 0b111110#6 0b111110#6 k
theorem andlw (k : Byte) : Statement (.andlw k) := masked 0b111001#6 0b111111#6 k
theorem call (k : BitVec 11) : Statement (.call k) := masked 0b100#3 0b111#3 k
theorem clrwdt : Statement (.clrwdt) := rfl
theorem goto (k : BitVec 11) : Statement (.goto k) := masked 0b101#3 0b111#3 k
theorem iorlw (k : Byte) : Statement (.iorlw k) := masked 0b111000#6 0b111111#6 k
theorem movlw (k : Byte) : Statement (.movlw k) := masked 0b110000#6 0b111100#6 k
theorem retfie : Statement (.retfie) := rfl
theorem retlw (k : Byte) : Statement (.retlw k) := masked 0b110100#6 0b111100#6 k
theorem retn : Statement (.retn) := rfl
theorem sleep : Statement (.sleep) := rfl
theorem sublw (k : Byte) : Statement (.sublw k) := masked 0b111100#6 0b111110#6 k
theorem xorlw (k : Byte) : Statement (.xorlw k) := masked 0b111010#6 0b111111#6 k

end Sys2Proof.Laws.EncodedRow
end

