-- ==== Sys2Proof/Laws/Step.lean ====
section
/-! SUPPORT. What a step is, by whose turn it is and what the core fetches. -/

namespace Sys2Proof.Machine

theorem step_no_turns {s : State} (h : s.turns = []) : step s = coreTurn s := by simp [step, h]

theorem step_core_turn {s : State} {rest : List Turn} (h : s.turns = .core :: rest) :
    step s = coreTurn { s with turns := rest } := by simp [step, h]

theorem step_env_turn {s : State} {move : Move} {rest : List Turn} (h : s.turns = .env move :: rest) :
    step s = envMove move { s with turns := rest } := by simp [step, h]

theorem coreTurn_sleeping {s : State} (h : s.mode = .sleeping) : coreTurn s = .next s := by simp [coreTurn, h]

theorem coreTurn_no_word {s : State} (h : s.mode = .running) (hf : fetch s = none) :
    coreTurn s = .fault (.fetchOutsideProgram s.pc) := by simp [coreTurn, h, hf]

theorem coreTurn_instr {s : State} {word : InstrWord} {i : Instr} (h : s.mode = .running) (hf : fetch s = some word)
    (hd : decode word = .ok i) : coreTurn s = exec i s := by simp [coreTurn, h, hf, hd]

theorem coreTurn_reject {s : State} {word : InstrWord} {e : DecodeReject} (h : s.mode = .running)
    (hf : fetch s = some word) (hd : decode word = .error e) : coreTurn s = .refused (refuseWord e s.pc word) := by
  simp [coreTurn, h, hf, hd]

/-- At the core's turn, scheduled or not, the step is the core's turn at the state with that turn used up. -/
theorem step_core_next {s : State} (h : s.coreNext) : step s = coreTurn { s with turns := s.turns.tail } := by
  rcases h with h | ⟨rest, h⟩
  · rw [step_no_turns h, h, List.tail_nil, ← h]
  · rw [step_core_turn h, h, List.tail_cons]

/-- At the core's turn a fetch that finds no word stops the step by name. -/
theorem step_no_word {s : State} (hc : s.coreNext) (h : s.mode = .running) (hf : fetch s = none) :
    step s = .fault (.fetchOutsideProgram s.pc) := by
  rw [step_core_next hc]
  exact coreTurn_no_word (s := { s with turns := s.turns.tail }) h hf

/-- At the core's turn a word that is no instruction stops the step by name. -/
theorem step_reject {s : State} {word : InstrWord} {e : DecodeReject} (hc : s.coreNext) (h : s.mode = .running)
    (hf : fetch s = some word) (hd : decode word = .error e) : step s = .refused (refuseWord e s.pc word) := by
  rw [step_core_next hc]
  exact coreTurn_reject (s := { s with turns := s.turns.tail }) h hf hd

/-- A step that answers a next state is a core's turn asleep, an instruction, or a move of the environment. -/
theorem step_cases {s t : State} (h : step s = .next t) :
    (s.mode = .sleeping ∧ ∃ rest, t = { s with turns := rest }) ∨
      (∃ i rest, s.mode = .running ∧ exec i { s with turns := rest } = .next t) ∨
      (∃ move rest, s.turns = .env move :: rest ∧ envMove move { s with turns := rest } = .next t) := by
  have hcore : ∀ u : State, (∃ rest, u = { s with turns := rest }) → coreTurn u = .next t →
      (s.mode = .sleeping ∧ ∃ rest, t = { s with turns := rest }) ∨
        (∃ i rest, s.mode = .running ∧ exec i { s with turns := rest } = .next t) := by
    rintro u ⟨rest, rfl⟩ hu
    unfold coreTurn at hu
    split at hu
    · rename_i hm
      cases hu
      exact .inl ⟨hm, rest, rfl⟩
    · rename_i hm
      split at hu
      · cases hu
      · split at hu
        · cases hu
        · exact .inr ⟨_, rest, hm, hu⟩
  unfold step at h
  split at h
  · rename_i ht
    rcases hcore s ⟨[], by rw [← ht]⟩ h with h | h
    · exact .inl h
    · exact .inr (.inl h)
  · rename_i rest ht
    rcases hcore _ ⟨rest, rfl⟩ h with h | h
    · exact .inl h
    · exact .inr (.inl h)
  · rename_i move rest ht
    exact .inr (.inr ⟨move, rest, ht, h⟩)

/-! ### A sleeping machine -/

/-- A move of the environment that leaves the machine asleep is no reset and changes nothing but flags of INTCON. -/
theorem envMove_asleep {move : Move} {s t : State} (hs : s.mode = .sleeping) (h : envMove move s = .next t)
    (ht : t.mode = .sleeping) :
    t = { s with intcon := t.intcon } ∧ move ≠ .mclr ∧ move ≠ .brownOut ∧ move ≠ .powerOn := by
  cases move with
  | raise flag =>
    simp only [envMove, raiseFlag] at h
    split at h <;> cases h <;> simp
  | interrupt periph =>
    simp only [envMove, interruptTakeable, hs] at h
    cases h
    simp
  | wake periph =>
    simp only [envMove] at h
    split at h
    · cases h; cases ht
    · cases h; simp
  | wdtTimeout =>
    simp only [envMove, hs] at h
    split at h
    · cases h; cases ht
    · cases h; simp
  | mclr => simp only [envMove, hs] at h; cases h; cases ht
  | brownOut => cases h; cases ht
  | powerOn => cases h; cases ht

/-- Asleep, the wake-up events admitted are a request and the enabled watchdog's time-out. -/
theorem wakeAdmitted_asleep {periph : Bool} {s : State} (hs : s.mode = .sleeping) :
    wakeAdmitted periph s = (irq periph s || s.cfg.wdtEnabled) := by simp [wakeAdmitted, timeoutAdmitted, hs]

/-- A machine that rests sleeps, and no wake-up event is admitted. -/
theorem asleep_of_restsFor {periph : Bool} {n : Nat} {s : State} (h : restsFor periph n s = true) :
    s.mode = .sleeping ∧ wakeAdmitted periph s = false := by
  unfold restsFor at h
  simp only [Bool.and_eq_true, decide_eq_true_eq, Bool.not_eq_true'] at h
  exact h.1

/-- A machine that rests for a step more takes that step and rests after it. -/
theorem step_of_restsFor {periph : Bool} {n : Nat} {s : State} (h : restsFor periph (n + 1) s = true) :
    ∃ t, step s = .next t ∧ restsFor periph n t = true := by
  unfold restsFor at h
  simp only [Bool.and_eq_true] at h
  obtain ⟨-, h⟩ := h
  split at h
  · exact ⟨_, ‹_›, h⟩
  · cases h
  · cases h

end Sys2Proof.Machine
end

