-- ==== Sys2Proof/Tests/Slice0.lean ====
section
/-! SUPPORT. The package's own tests. Expected results come from the spec: the encoding patterns of spec/30_encoding.md
R75, the vectors V1 to V182 and program P7 of spec/95_test_vectors.md, and the reset table of spec/10_state.md R31. Then,
for each statement with hypotheses, a named witness that meets them. -/

namespace Sys2Proof.Tests

open Sys2Proof.Machine

/-! ### Well-formedness -/

theorem test_wellFormed_bcf_refuses_8 : (Instr.bcf 0x20#7 8).wellFormed = false := by decide
theorem test_wellFormed_bsf_refuses_8 : (Instr.bsf 0x20#7 8).wellFormed = false := by decide
theorem test_wellFormed_btfsc_refuses_8 : (Instr.btfsc 0x20#7 8).wellFormed = false := by decide
theorem test_wellFormed_btfss_refuses_8 : (Instr.btfss 0x20#7 8).wellFormed = false := by decide
theorem test_wellFormed_btfss_admits_7 : (Instr.btfss 0x20#7 7).wellFormed = true := by decide

/-! ### Decoding: each row's word, written out bit by bit from its pattern in R75 -/

theorem test_decode_byteOriented :
    decode 0b00011110100000#14 = .ok (.addwf 0x20 .f) ∧ decode 0b00010100100000#14 = .ok (.andwf 0x20 .w) ∧
      decode 0b00000110100000#14 = .ok (.clrf 0x20) ∧ decode 0b00000101111111#14 = .ok .clrw ∧
      decode 0b00100110100000#14 = .ok (.comf 0x20 .f) ∧ decode 0b00001100100000#14 = .ok (.decf 0x20 .w) ∧
      decode 0b00101110100000#14 = .ok (.decfsz 0x20 .f) ∧ decode 0b00101000100000#14 = .ok (.incf 0x20 .w) ∧
      decode 0b00111110100000#14 = .ok (.incfsz 0x20 .f) := by decide

theorem test_decode_byteOriented_more :
    decode 0b00010000100000#14 = .ok (.iorwf 0x20 .w) ∧ decode 0b00100010100000#14 = .ok (.movf 0x20 .f) ∧
      decode 0b00000010100000#14 = .ok (.movwf 0x20) ∧ decode 0b00000001100000#14 = .ok .nop ∧
      decode 0b00110110100000#14 = .ok (.rlf 0x20 .f) ∧ decode 0b00110000100000#14 = .ok (.rrf 0x20 .w) ∧
      decode 0b00001010100000#14 = .ok (.subwf 0x20 .f) ∧ decode 0b00111000100000#14 = .ok (.swapf 0x20 .w) ∧
      decode 0b00011010100000#14 = .ok (.xorwf 0x20 .f) := by decide

theorem test_decode_bitOriented :
    decode 0b01001010000101#14 = .ok (.bcf 0x05 5) ∧ decode 0b01011110000101#14 = .ok (.bsf 0x05 7) ∧
      decode 0b01100010000101#14 = .ok (.btfsc 0x05 1) ∧ decode 0b01111111111111#14 = .ok (.btfss 0x7F 7) := by decide

theorem test_decode_literalControl :
    decode 0b11111100010101#14 = .ok (.addlw 0x15) ∧ decode 0b11100101011111#14 = .ok (.andlw 0x5F) ∧
      decode 0b10011111111110#14 = .ok (.call 0x7FE) ∧ decode 0b00000001100100#14 = .ok .clrwdt ∧
      decode 0b10101000110100#14 = .ok (.goto 0x234) ∧ decode 0b11100000110101#14 = .ok (.iorlw 0x35) ∧
      decode 0b11001101011010#14 = .ok (.movlw 0x5A) := by decide

theorem test_decode_literalControl_more :
    decode 0b00000000001001#14 = .ok .retfie ∧ decode 0b11011101010101#14 = .ok (.retlw 0x55) ∧
      decode 0b00000000001000#14 = .ok .retn ∧ decode 0b00000001100011#14 = .ok .sleep ∧
      decode 0b11110100000010#14 = .ok (.sublw 0x02) ∧ decode 0b11101010101111#14 = .ok (.xorlw 0xAF) := by decide

/-- V120 to V123. -/
theorem test_decode_refuses :
    decode 0x0001#14 = .error .unlistedWord ∧ decode 0x000A#14 = .error .unlistedWord ∧
      decode 0x0061#14 = .error .unlistedWord ∧ decode 0x007F#14 = .error .unlistedWord ∧
      decode 0x3B00#14 = .error .unlistedWord ∧ decode 0x3BFF#14 = .error .unlistedWord ∧
      decode 0x0062#14 = .error .optionTris ∧ decode 0x0067#14 = .error .optionTris := by decide

theorem test_encode_canonical :
    encode .clrw = 0x0100#14 ∧ encode (.movlw 0xFF) = 0x30FF#14 ∧ encode (.bsf 0x20 7) = 0x17A0#14 ∧
      encode (.call 0x7FF) = 0x27FF#14 ∧ encode (.rlf 0x20 .f) = 0x0DA0#14 := by decide

/-! ### One step on a small state: the conventions of spec/95_test_vectors.md -/

/-- The vectors' state before the instruction: pc = 0x0100, STATUS = 0x18, all else as after reset. -/
def base : State := { State.reset with pc := 0x0100#13 }

/-- The step of a state in which the word has been loaded at pc ends in a state of which `p` holds. -/
def runs (word : Nat) (s : Machine.State) (p : Machine.State → Bool) : Bool :=
  match step (s.withFetchWord 16 word) with
  | .next t => p t
  | .fault _ => false
  | .refused _ => false

/-- V3. -/
theorem test_addwf_carries : runs 0x07A0
    { (base.setRam 0x20 0xFF#8) with w := 0x01#8 }
    (fun t => ramRead t.ram 0x20 = 0x00#8 ∧ t.w = 0x01#8 ∧ t.status = 0x1F#8 ∧ t.pc = 0x0101#13) = true := by decide

/-- V154. -/
theorem test_addwf_pcl_loses_the_carry : runs 0x0782
    { base with w := 0x01#8, pc := 0x00FF#13 }
    (fun t => t.pc = 0x0001#13 ∧ t.status = 0x18#8 ∧ t.cycles = 2) = true := by decide

/-- V8. -/
theorem test_andwf_keeps_carry : runs 0x0520
    { (base.setRam 0x20 0x0F#8) with w := 0xF0#8, status := 0x19#8 }
    (fun t => t.w = 0x00#8 ∧ t.status = 0x1D#8 ∧ ramRead t.ram 0x20 = 0x0F#8) = true := by decide

/-- V9. -/
theorem test_clrf_keeps_carries : runs 0x01A0
    { (base.setRam 0x20 0x5A#8) with status := 0x1B#8 }
    (fun t => ramRead t.ram 0x20 = 0x00#8 ∧ t.status = 0x1F#8) = true := by decide

/-- V132. -/
theorem test_clrf_status : runs 0x0183
    { base with status := 0xFB#8 }
    (fun t => t.status = 0x1F#8 ∧ t.pc = 0x0101#13) = true := by decide

/-- V110. -/
theorem test_clrw_dont_care_bits : runs 0x0103
    { base with w := 0x5A#8 }
    (fun t => t.w = 0x00#8 ∧ t.status = 0x1C#8) = true := by decide

/-- V11. -/
theorem test_comf : runs 0x0920
    (base.setRam 0x20 0x13#8)
    (fun t => t.w = 0xEC#8 ∧ ramRead t.ram 0x20 = 0x13#8 ∧ t.status = 0x18#8) = true := by decide

/-- V14. -/
theorem test_decf_wraps : runs 0x03A0
    { (base.setRam 0x20 0x00#8) with status := 0x19#8 }
    (fun t => ramRead t.ram 0x20 = 0xFF#8 ∧ t.status = 0x19#8) = true := by decide

/-- V17. -/
theorem test_decfsz_skips : runs 0x0BA0
    (base.setRam 0x20 0x01#8)
    (fun t => ramRead t.ram 0x20 = 0x00#8 ∧ t.pc = 0x0102#13 ∧ t.status = 0x18#8 ∧ t.cycles = 2) = true := by decide

/-- V181. -/
theorem test_decfsz_skip_wraps : runs 0x0BA0
    { (base.setRam 0x20 0x01#8) with pc := 0x1FFF#13 }
    (fun t => ramRead t.ram 0x20 = 0x00#8 ∧ t.pc = 0x0001#13) = true := by decide

/-- V20. -/
theorem test_incf_wraps : runs 0x0AA0
    (base.setRam 0x20 0xFF#8)
    (fun t => ramRead t.ram 0x20 = 0x00#8 ∧ t.status = 0x1C#8) = true := by decide

/-- V171. -/
theorem test_incf_fsr_through_indf : runs 0x0A80
    { base with fsr := 0x04#8 }
    (fun t => t.fsr = 0x05#8 ∧ t.status = 0x18#8) = true := by decide

/-- V23. -/
theorem test_incfsz_skips : runs 0x0FA0
    (base.setRam 0x20 0xFF#8)
    (fun t => ramRead t.ram 0x20 = 0x00#8 ∧ t.pc = 0x0102#13 ∧ t.status = 0x18#8 ∧ t.cycles = 2) = true := by decide

/-- V158. -/
theorem test_incfsz_pcl_is_refused : step (base.withFetchWord 16 0x0F82) = .refused (.skipWritesPcl 0x0100#13) := rfl

/-- V26. -/
theorem test_iorwf : runs 0x0420
    { (base.setRam 0x20 0x13#8) with w := 0x91#8 }
    (fun t => t.w = 0x93#8 ∧ t.status = 0x18#8) = true := by decide

/-- V165. -/
theorem test_movf_indf_through_indf : runs 0x0800
    { base with w := 0x33#8 }
    (fun t => t.w = 0x00#8 ∧ t.status = 0x1C#8) = true := by decide

/-- V157. -/
theorem test_movf_writes_pcl_back : runs 0x0882
    { base with pclath := 0x1F#5 }
    (fun t => t.pc = 0x1F01#13 ∧ t.status = 0x18#8) = true := by decide

/-- V130. -/
theorem test_movwf_status : runs 0x0083
    { base with w := 0xFF#8 }
    (fun t => t.status = 0xFF#8) = true := by decide

/-- V170. -/
theorem test_movwf_indirect_shared_cell : runs 0x0080
    { base with w := 0x11#8, fsr := 0xF5#8 }
    (fun t => ramRead t.ram 0x75 = 0x11#8 ∧ t.fsr = 0xF5#8) = true := by decide

/-- V180. -/
theorem test_nop_wraps : runs 0x0000
    { base with pc := 0x1FFF#13 }
    (fun t => t.pc = 0x0000#13 ∧ t.status = 0x18#8 ∧ t.w = 0x00#8) = true := by decide

/-- V34. -/
theorem test_rlf_keeps_zero : runs 0x0D20
    (base.setRam 0x20 0x80#8)
    (fun t => t.w = 0x00#8 ∧ t.status = 0x19#8 ∧ ramRead t.ram 0x20 = 0x80#8) = true := by decide

/-- V140. -/
theorem test_rlf_status : runs 0x0D83
    { base with status := 0x19#8 }
    (fun t => t.status = 0x38#8) = true := by decide

/-- V39. -/
theorem test_rrf_carry_enters : runs 0x0CA0
    { (base.setRam 0x20 0x00#8) with status := 0x19#8 }
    (fun t => ramRead t.ram 0x20 = 0x80#8 ∧ t.status = 0x18#8) = true := by decide

/-- V44. -/
theorem test_subwf_digit_borrow : runs 0x0220
    { (base.setRam 0x20 0x10#8) with w := 0x01#8 }
    (fun t => t.w = 0x0F#8 ∧ t.status = 0x19#8 ∧ ramRead t.ram 0x20 = 0x10#8) = true := by decide

/-- V43. -/
theorem test_subwf_negative : runs 0x02A0
    { (base.setRam 0x20 0x01#8) with w := 0x02#8 }
    (fun t => ramRead t.ram 0x20 = 0xFF#8 ∧ t.status = 0x18#8 ∧ t.w = 0x02#8) = true := by decide

/-- V142. -/
theorem test_swapf_reads_status : runs 0x0E03
    { base with status := 0x1D#8 }
    (fun t => t.w = 0xD1#8 ∧ t.status = 0x1D#8) = true := by decide

/-- V50. -/
theorem test_xorwf : runs 0x06A0
    { (base.setRam 0x20 0xAF#8) with w := 0xB5#8 }
    (fun t => ramRead t.ram 0x20 = 0x1A#8 ∧ t.status = 0x18#8 ∧ t.w = 0xB5#8) = true := by decide

/-- V60. -/
theorem test_bcf : runs 0x13A0
    (base.setRam 0x20 0xC7#8)
    (fun t => ramRead t.ram 0x20 = 0x47#8 ∧ t.status = 0x18#8) = true := by decide

/-- V136. -/
theorem test_bcf_timeOut_is_not_writable : runs 0x1203
    base
    (fun t => t.status = 0x18#8) = true := by decide

/-- V135. -/
theorem test_bsf_selects_bank : runs 0x1683
    base
    (fun t => t.status = 0x38#8) = true := by decide

/-- V156. -/
theorem test_bsf_pcl : runs 0x1782
    base
    (fun t => t.pc = 0x0081#13 ∧ t.cycles = 2) = true := by decide

/-- V65. -/
theorem test_btfsc_skips : runs 0x18A0
    (base.setRam 0x20 0xFD#8)
    (fun t => t.pc = 0x0102#13 ∧ t.cycles = 2) = true := by decide

/-- V143. -/
theorem test_btfsc_status : runs 0x1903
    base
    (fun t => t.pc = 0x0102#13) = true := by decide

/-- V66. -/
theorem test_btfss_bit_7 : runs 0x1FA0
    (base.setRam 0x20 0x80#8)
    (fun t => t.pc = 0x0102#13) = true := by decide

/-- V68. -/
theorem test_btfss_skip_wraps : runs 0x1C20
    { (base.setRam 0x20 0x01#8) with pc := 0x1FFE#13 }
    (fun t => t.pc = 0x0000#13) = true := by decide

/-- V117. -/
theorem test_addlw_dont_care_bit : runs 0x3F01
    { base with w := 0xFF#8 }
    (fun t => t.w = 0x00#8 ∧ t.status = 0x1F#8) = true := by decide

/-- V76. -/
theorem test_andlw : runs 0x390F
    { base with w := 0xF0#8 }
    (fun t => t.w = 0x00#8 ∧ t.status = 0x1C#8) = true := by decide

/-- V92. -/
theorem test_call_from_page_edge : runs 0x27FF
    { base with pc := 0x07FE#13, pclath := 0x18#5 }
    (fun t => t.pc = 0x1FFF#13 ∧ t.stack = [0x07FF#13] ∧ t.pclath = 0x18#5 ∧ t.cycles = 2) = true := by decide

/-- V95. -/
theorem test_call_full_stack :
    step ({ base with stack := [8, 7, 6, 5, 4, 3, 2, 1], stale := [] }.withFetchWord 16 0x2010) =
      .fault (.stackOverflow 0x0100#13) := rfl

/-- V104. -/
theorem test_clrwdt : runs 0x0064
    { base with status := 0x00#8, wdt := 3, prescaler := 2 }
    (fun t => t.status = 0x18#8 ∧ t.wdt = 0 ∧ t.prescaler = 0) = true := by decide

/-- V97. -/
theorem test_goto_uses_pclath_4_3 : runs 0x2805
    { base with pc := 0x1800#13, pclath := 0x07#5 }
    (fun t => t.pc = 0x0005#13 ∧ t.stack = [] ∧ t.cycles = 2) = true := by decide

/-- V77. -/
theorem test_iorlw : runs 0x3835
    { base with w := 0x9A#8 }
    (fun t => t.w = 0xBF#8 ∧ t.status = 0x18#8) = true := by decide

/-- V80. -/
theorem test_movlw_keeps_zero : runs 0x3000
    { base with w := 0x77#8 }
    (fun t => t.w = 0x00#8 ∧ t.status = 0x18#8) = true := by decide

/-- V102. -/
theorem test_retfie : runs 0x0009
    { base with stack := [0x0ABC#13], intcon := 0x12#8 }
    (fun t => t.pc = 0x0ABC#13 ∧ t.stack = [] ∧ t.intcon = 0x92#8) = true := by decide

/-- V103. -/
theorem test_retfie_empty_stack : step (base.withFetchWord 16 0x0009) = .fault (.stackUnderflow 0x0100#13) := rfl

/-- V100. -/
theorem test_retlw : runs 0x3441
    { base with stack := [0x1234#13, 0x0055#13] }
    (fun t => t.w = 0x41#8 ∧ t.pc = 0x1234#13 ∧ t.stack = [0x0055#13] ∧ t.status = 0x18#8) = true := by decide

/-- V98. -/
theorem test_return : runs 0x0008
    { base with stack := [0x0101#13] }
    (fun t => t.pc = 0x0101#13 ∧ t.stack = [] ∧ t.cycles = 2) = true := by decide

/-- V105. -/
theorem test_sleep : runs 0x0063
    { base with status := 0x08#8, wdt := 3, prescaler := 2 }
    (fun t => t.status = 0x10#8 ∧ t.pc = 0x0101#13 ∧ t.mode = .sleeping ∧ t.wdt = 0 ∧ t.prescaler = 0) = true := by decide

/-- V118. -/
theorem test_sublw_dont_care_bit : runs 0x3D02
    { base with w := 0x01#8 }
    (fun t => t.w = 0x01#8 ∧ t.status = 0x1B#8) = true := by decide

/-- V88. -/
theorem test_sublw_negates_80 : runs 0x3C00
    { base with w := 0x80#8 }
    (fun t => t.w = 0x80#8 ∧ t.status = 0x1A#8) = true := by decide

/-- V90. -/
theorem test_xorlw : runs 0x3AFF
    { base with w := 0xFF#8 }
    (fun t => t.w = 0x00#8 ∧ t.status = 0x1C#8) = true := by decide

/-- V182: with PROG_WORDS = 4096 the fetch at 0x1000 faults. -/
theorem test_fetch_outside_program :
    step { base with pc := 0x1000#13, prog := [(0x1000, 0#14)], cfg := { defaultConfig with progWords := .w4096 } } =
      .fault (.fetchOutsideProgram 0x1000#13) := rfl

/-! ### Moves of the environment -/

/-- What one step makes of a state whose next turn is a move. -/
def moves (move : Move) (s : Machine.State) (p : Machine.State → Bool) : Bool :=
  match step { s with turns := [.env move] } with
  | .next t => p t
  | .fault _ => false
  | .refused _ => false

/-- Program P7: INTF requested, GIE and INTE set, at the GOTO at 0x0013. -/
theorem test_interrupt_entry : moves (.interrupt false) { base with pc := 0x0013#13, intcon := 0x92#8 }
    (fun t => t.intcon = 0x12#8 ∧ t.stack = [0x0013#13] ∧ t.pc = 0x0004#13 ∧ t.status = 0x18#8) = true := by decide

/-- R166: no entry with GIE = 0. -/
theorem test_interrupt_masked : moves (.interrupt true) { base with intcon := 0x7F#8 }
    (fun t => t.pc = 0x0100#13 ∧ t.stack = [] ∧ t.intcon = 0x7F#8) = true := by decide

/-- R31, column WDT time-out reset: STATUS `0000 1uuu`. -/
theorem test_watchdog_reset : moves .wdtTimeout
    { base with status := 0xF7#8, wdtArmed := true, cfg := { defaultConfig with wdtEnabled := true } }
    (fun t => t.status = 0x0F#8 ∧ t.pc = 0x0000#13) = true := by decide

/-- R31, column MCLR reset during SLEEP: STATUS `0001 0uuu`. -/
theorem test_mclr_in_sleep : moves .mclr { base with status := 0xF5#8, mode := .sleeping, intcon := 0xFF#8 }
    (fun t => t.status = 0x15#8 ∧ t.pc = 0x0000#13 ∧ t.mode = .running ∧ t.intcon = 0x01#8) = true := by decide

/-- R31, column interrupt wake-up from SLEEP: STATUS `uuu1 0uuu`. -/
theorem test_wake_by_interrupt : moves (.wake false) { base with status := 0xE7#8, mode := .sleeping, intcon := 0x12#8 }
    (fun t => t.status = 0xF7#8 ∧ t.pc = 0x0100#13 ∧ t.mode = .running ∧ t.intcon = 0x12#8) = true := by decide

/-! ### Witnesses: for each statement with hypotheses, a state and operands that meet them -/

/-- A NOP loaded at pc, and the core's turn. -/
def nopAtPc : Machine.State := { base with prog := [(0x0100, 0#14)] }

/-- A state whose RAM is listed at a first and a last cell of the map, with a full stack. -/
def busy : Machine.State :=
  { base with
    ram := [(0x20, 0x05#8), (0x1EF, 0x07#8)]
    stack := [8, 7, 6, 5, 4, 3, 2, 1]
    stale := []
    prog := [(0x0000, 0x2810#14), (0x1FFF, 0x0063#14)] }

/-- The depth before the last free entry. -/
def sevenDeep : Machine.State := { base with stack := [7, 6, 5, 4, 3, 2, 1], stale := [0] }

/-- The circular stack, empty. -/
def circularEmpty : Machine.State :=
  { base with cfg := { defaultConfig with stackWrap := .circular }, stale := [1, 2, 3, 4, 5, 6, 7, 8] }

/-- The circular stack, full. -/
def circularFull : Machine.State := { busy with cfg := { defaultConfig with stackWrap := .circular } }

theorem test_witness_StepRunsTheDecodedInstruction :
    nopAtPc.mode = .running ∧ nopAtPc.pc.toNat < nopAtPc.cfg.progWords.count ∧
      progRead nopAtPc.prog nopAtPc.pc = some 0#14 ∧ decode 0#14 = .ok .nop ∧ nopAtPc.turns = [] ∧
      { nopAtPc with turns := [.core, .core] }.turns = .core :: [.core] := by decide

theorem test_witness_LoadedWordRunsNext :
    decodeTableWord 16 0x07A0 = some (.addwf 0x20 .f) ∧ decodeTableWord 16 0x3FFF = some (.addlw 0xFF) ∧
      decodeTableWord 16 0x4000 = none := by decide

/-- Both clauses: the first address past a 4096-word program, and an address that lists no word. -/
theorem test_witness_FetchOutsideProgramFaults :
    { base with pc := 0x1000#13, cfg := { defaultConfig with progWords := .w4096 } }.cfg.progWords.count ≤
        (0x1000#13).toNat ∧ base.mode = .running ∧ base.turns = [] ∧
      { base with turns := [.core, .core] }.turns = .core :: [.core] ∧
      (∀ x ∈ [((0x00FF : Nat), 0#14), (0x0101, 0#14)], x.1 ≠ base.pc.toNat) := by decide

/-- The ends of the ranges of R78, and the words next to them. -/
theorem test_witness_UnlistedWordsAreRefused :
    unlistedByR78 0x0001 ∧ unlistedByR78 0x0007 ∧ ¬unlistedByR78 0x0008 ∧ ¬unlistedByR78 0x0009 ∧
      unlistedByR78 0x000A ∧ unlistedByR78 0x001F ∧ ¬unlistedByR78 0x0020 ∧ unlistedByR78 0x0021 ∧
      unlistedByR78 0x005F ∧ ¬unlistedByR78 0x0060 ∧ unlistedByR78 0x0062 ∧ ¬unlistedByR78 0x0063 ∧
      ¬unlistedByR78 0x0064 ∧ unlistedByR78 0x0065 ∧ unlistedByR78 0x007F ∧ ¬unlistedByR78 0x0080 ∧
      ¬unlistedByR78 0x3AFF ∧ unlistedByR78 0x3B00 ∧ unlistedByR78 0x3BFF ∧ ¬unlistedByR78 0x3C00 := by
  simp [unlistedByR78]

theorem test_witness_UnlistedWordsAreRefused_state :
    { nopAtPc with prog := [(0x0100, 0x3B00#14)] }.mode = .running ∧
      progRead [(0x0100, 0x3B00#14)] nopAtPc.pc = some 0x3B00#14 ∧ nopAtPc.turns = [] ∧
      nopAtPc.pc.toNat < nopAtPc.cfg.progWords.count := by decide

theorem test_witness_OptionAndTrisAreRefused :
    progRead [(0x0100, 0x0067#14)] nopAtPc.pc = some 0x0067#14 ∧ decode 0x0062#14 = .error .optionTris ∧
      decode 0x0065#14 = .error .optionTris ∧ decode 0x0066#14 = .error .optionTris ∧
      decode 0x0067#14 = .error .optionTris ∧ nopAtPc.turns = [] ∧ nopAtPc.mode = .running := by decide

theorem test_witness_OpcodeMapIsTheDecoder :
    0x07A0#14 &&& rowMask (.addwf 0x20 .f) = rowMatch (.addwf 0x20 .f) ∧
      0x07A0#14 &&& rowMask (.addwf 0x00 .w) = rowMatch (.addwf 0x00 .w) := by decide

theorem test_witness_DecodeOfEncodeIsTheInstruction :
    (Instr.btfss 0x7F 7).wellFormed = true ∧ (Instr.clrw).wellFormed = true := by decide

theorem test_witness_DontCareBitsAreIgnored : decode 0x017F#14 = .ok .clrw ∧ decode 0x37FF#14 = .ok (.retlw 0xFF) := by
  decide

theorem test_witness_EveryStepKeepsTheInvariant : busy.Inv ∧ nopAtPc.Inv := by decide

theorem test_witness_EveryStepKeepsTheInvariant_step : ∃ t, step nopAtPc = .next t := ⟨_, rfl⟩

theorem test_witness_ProgramMemoryIsNeverWritten :
    ∃ t, step { nopAtPc with turns := [.env .powerOn] } = .next t := ⟨_, rfl⟩

theorem test_witness_DirectAddressesUseTheBankBits :
    (0x01#7 : FileNo) ≠ 0x00#7 ∧ (0x7F#7 : FileNo) ≠ 0x00#7 ∧
      dataAddr 0x7F#7 { base with status := 0x78#8 } = 0x1FF#9 := by decide

theorem test_witness_IndirectAddressesUseFsr :
    (0x000#9 : DataAddr).toNat % 128 = 0 ∧ (0x180#9 : DataAddr).toNat % 128 = 0 ∧
      { base with fsr := 0x80#8 }.fsr.toNat % 128 = 0 := by decide

/-- Each clause, at the ends of a RAM range and at the device addresses next to it. -/
theorem test_witness_DataReadsByAddressClass :
    ramCell .pic876 0x020#9 = some 0x20 ∧ ramCell .pic876 0x1FF#9 = some 0x7F ∧ ramCell .pic876 0x01F#9 = none ∧
      ramCell .pic876 0x18F#9 = none ∧ ramCell .pic873 0x120#9 = some 0x20 ∧ ramCell .pic873 0x11F#9 = none ∧
      (∀ low ∈ [0x01#7, 0x05#7, 0x0C#7, 0x1F#7],
        low ≠ 0x00#7 ∧ low ≠ 0x02#7 ∧ low ≠ 0x03#7 ∧ low ≠ 0x04#7 ∧ low ≠ 0x0A#7 ∧ low ≠ 0x0B#7) := by decide

theorem test_witness_RamMapOfBothVariants : 0x70 ≤ (0x70#7 : FileNo).toNat ∧ 0x70 ≤ (0x7F#7 : FileNo).toNat := by
  decide

/-- The same cell through two addresses, and two cells. -/
theorem test_witness_RamReturnsTheLastValueWritten :
    ramCell base.cfg.ramMap 0x070#9 = some 0x70 ∧ ramCell base.cfg.ramMap 0x1F0#9 = some 0x70 ∧
      ramCell base.cfg.ramMap 0x0EF#9 = some 0xEF := by decide

theorem test_witness_StackPushesAndPops :
    sevenDeep.stack.length < 8 ∧ 8 ≤ busy.stack.length ∧ busy.cfg.stackWrap = .fault ∧ base.stack = [] ∧
      base.cfg.stackWrap = .fault ∧ circularFull.stack.length = 8 ∧ circularFull.cfg.stackWrap = .circular ∧
      circularEmpty.Inv ∧ circularEmpty.stack = [] ∧ circularEmpty.cfg.stackWrap = .circular ∧
      circularEmpty.stale = 1 :: [2, 3, 4, 5, 6, 7, 8] := by decide

theorem test_witness_PclReadsAndWrites :
    base.classOf (dataAddr 0x02#7 base) = .pcl ∧
      { base with fsr := 0x82#8 }.classOf (dataAddr 0x00#7 { base with fsr := 0x82#8 }) = .pcl := by decide

theorem test_witness_PortsAreModifiedFromTheirPins :
    DeviceAddr (dataAddr 0x06#7 base) base ∧ DeviceAddr (dataAddr 0x1F#7 base) base ∧
      DeviceAddr (dataAddr 0x01#7 base) base ∧ DeviceAddr 0x18C#9 base ∧ (0x18C#9).extractLsb' 0 7 ≠ 0x01#7 := by decide

/-- R26, C8: MOVWF TMR0 (bank 0) clears the prescaler with PSA = 0, not with PSA = 1; in bank 1 it writes OPTION_REG. -/
theorem test_movwf_tmr0_and_option :
    runs 0x0081 { base with w := 0x5A#8, optionReg := 0xF7#8, prescaler := 9 }
        (fun t => t.tmr0 = 0x5A#8 ∧ t.prescaler = 0 ∧ t.optionReg = 0xF7#8 ∧ t.outputs = [⟨0x001#9, 0x5A#8⟩]) = true ∧
      runs 0x0081 { base with w := 0x5A#8, optionReg := 0xFF#8, prescaler := 9 }
        (fun t => t.tmr0 = 0x5A#8 ∧ t.prescaler = 9) = true ∧
      runs 0x0081 { base with w := 0x5A#8, status := 0x38#8, optionReg := 0xF7#8, prescaler := 9 }
        (fun t => t.optionReg = 0x5A#8 ∧ t.tmr0 = 0x00#8 ∧ t.prescaler = 9) = true := by decide

/-- The clause that refuses, and the clause that completes. -/
theorem test_witness_SkippingIncrementAndDecrement :
    (Dest.f = .f ∧ base.classOf (dataAddr 0x02#7 base) = .pcl) ∧
      ¬(Dest.w = .f ∧ base.classOf (dataAddr 0x02#7 base) = .pcl) := by decide

theorem test_witness_RotatesThroughCarry : base.classOf (dataAddr 0x20#7 base) = .ram 0x20 := by decide

theorem test_witness_BitClearAndBitSet : (0 : Nat) ≤ 7 ∧ (7 : Nat) ≤ 7 := by decide

theorem test_witness_BitTestsSkip : (0 : Nat) ≤ 7 ∧ (7 : Nat) ≤ 7 := by decide

theorem test_witness_CallPushesAndJumps :
    sevenDeep.stack.length < 8 ∧ 8 ≤ busy.stack.length ∧ busy.cfg.stackWrap = .fault ∧
      circularFull.stack.length = 8 ∧ circularFull.cfg.stackWrap = .circular := by decide

theorem test_witness_ReturnsPopTheStack :
    busy.stack = 8 :: [7, 6, 5, 4, 3, 2, 1] ∧ { base with stack := [1] }.stack = 1 :: [] ∧ base.stack = [] ∧
      base.cfg.stackWrap = .fault ∧ circularEmpty.stack = [] ∧ circularEmpty.cfg.stackWrap = .circular ∧
      circularEmpty.stale = 1 :: [2, 3, 4, 5, 6, 7, 8] := by decide

theorem test_witness_RetfieReturnsAndEnablesInterrupts :
    busy.stack = 8 :: [7, 6, 5, 4, 3, 2, 1] ∧ base.stack = [] ∧ base.cfg.stackWrap = .fault ∧
      circularEmpty.stack = [] ∧ circularEmpty.cfg.stackWrap = .circular ∧
      circularEmpty.stale = 1 :: [2, 3, 4, 5, 6, 7, 8] := by decide

/-- Each flag is changed by a listed instruction: C, DC and Z by an addition to 0x00, TO by CLRWDT. -/
theorem test_witness_OnlyTheListedInstructionsChangeFlags :
    (∃ t, exec (.addlw 0x01#8) { base with w := 0xFF#8 } = .next t ∧ t.flagC ≠ base.flagC ∧ t.flagDC ≠ base.flagDC ∧
      t.flagZ ≠ base.flagZ) ∧
      ∃ t, exec .clrwdt { base with status := 0x00#8 } = .next t ∧ t.flagTO ≠ false := ⟨⟨_, rfl, by decide⟩, ⟨_, rfl, by decide⟩⟩

theorem test_witness_OnlyAFileWriteChangesPclath :
    ∃ t, exec (.movwf 0x0A#7) { base with w := 0xFF#8 } = .next t ∧ t.pclath ≠ base.pclath := ⟨_, rfl, by decide⟩

theorem test_witness_OnlyRetfieAndFileWritesChangeIntcon :
    (∃ t, exec (.bsf 0x0B#7 7) base = .next t ∧ t.intcon ≠ base.intcon) ∧
      ∃ t, exec .retfie { base with stack := [1] } = .next t ∧ t.intcon ≠ base.intcon :=
  ⟨⟨_, rfl, by decide⟩, ⟨_, rfl, by decide⟩⟩

theorem test_witness_OnlyTheListedInstructionsChangeW :
    ∃ t, exec (.movlw 0x5A#8) base = .next t ∧ t.w ≠ base.w := ⟨_, rfl, by decide⟩

theorem test_witness_OnlyCallsAndReturnsChangeTheStack :
    ∃ t, exec (.call 0x234#11) base = .next t ∧ t.stack ≠ base.stack := ⟨_, rfl, by decide⟩

/-- One for each way but `+ 1`: a jump, a return, a skip, a write to PCL. -/
theorem test_witness_WaysThePcChanges :
    (∃ t, exec (.goto 0x234#11) base = .next t ∧ t.pc ≠ base.pc + 1) ∧
      (∃ t, exec .retn { base with stack := [1] } = .next t ∧ t.pc ≠ base.pc + 1) ∧
      (∃ t, exec (.btfsc 0x03#7 2) base = .next t ∧ t.pc ≠ base.pc + 1) ∧
      ∃ t, exec (.clrf 0x02#7) base = .next t ∧ t.pc ≠ base.pc + 1 :=
  ⟨⟨_, rfl, by decide⟩, ⟨_, rfl, by decide⟩, ⟨_, rfl, by decide⟩, ⟨_, rfl, by decide⟩⟩

/-- R153, R22: ADDWF PCL,1 with W = 0x10 jumps to PCLATH : (0x01 + 0x10), the byte written; BSF PCL,1 to PCLATH : 0x03. -/
theorem test_pcl_byte_written :
    (∃ t, exec (.addwf 0x02#7 .f) { base with w := 0x10#8, pclath := 0x02#5 } = .next t ∧ t.pc = 0x0211#13 ∧
      fileResult (.addwf 0x02#7 .f) { base with w := 0x10#8 } = some 0x11#8) ∧
      fileResult (.bsf 0x02#7 1) base = some 0x03#8 := ⟨⟨_, rfl, by decide, by decide⟩, by decide⟩

theorem test_witness_CyclesOfEveryInstruction : ∃ t, exec (.clrf 0x02#7) base = .next t := ⟨_, rfl⟩

theorem test_witness_ReturnsUndoCallsAndInterruptEntries :
    sevenDeep.stack.length < 8 ∧ { sevenDeep with intcon := 0x80#8 }.gie = true := by decide

/-- The entry's premises below the depth limit, at it with either STACK_WRAP, and a state that takes none. -/
theorem test_witness_InterruptEntry :
    (∀ s ∈ [{ sevenDeep with intcon := 0x92#8 }, { busy with intcon := 0xA4#8 },
        { circularFull with intcon := 0x89#8 }],
      s.mode = .running ∧ s.intcon.getLsbD 7 = true ∧ irq false s = true ∧ s.holdoff = false) ∧
      { busy with intcon := 0x12#8 }.intcon.getLsbD 7 = false ∧
      { base with turns := [.env (.interrupt true)] }.turns = .env (.interrupt true) :: [] := by decide

theorem test_witness_SleepingCoreKeepsItsState :
    { base with mode := .sleeping }.mode = .sleeping ∧ { base with turns := [.core] }.turns = .core :: [] ∧
      (∀ x ∈ { base with turns := [.core, .core] }.turns, x = .core) ∧
      atRest false { base with mode := .sleeping, turns := [.env (.raise .intf), .core] } = true := by decide

/-- R178, U17: asleep with nothing to wake it; with a request pending; with the watchdog; with a raise that makes a request
to come, and with one that does not; with an interrupt and a disabled time-out to come; with a reset to come; awake. -/
theorem test_end_of_run :
    atRest false { base with mode := .sleeping } = true ∧
      atRest false { base with mode := .sleeping, intcon := 0x12#8 } = false ∧
      atRest false { base with mode := .sleeping, cfg := { defaultConfig with wdtEnabled := true } } = false ∧
      atRest false { base with mode := .sleeping, intcon := 0x10#8, turns := [.env (.raise .intf)] } = false ∧
      atRest false { base with mode := .sleeping, intcon := 0x10#8, turns := [.env (.raise .rbif)] } = true ∧
      atRest false { base with mode := .sleeping, turns := [.env (.interrupt false), .env .wdtTimeout] } = true ∧
      atRest false { base with mode := .sleeping, turns := [.env .mclr] } = false ∧
      endOfRun 0x0000#13 false base = false ∧ endOfRun 0x0100#13 false base = true := by decide

/-- With GIE set and the next turn an interrupt, and with GIE clear; no request, and awake. -/
theorem test_witness_InterruptRequestWakes :
    (∀ s ∈ [{ base with mode := .sleeping, intcon := 0x92#8, turns := [.env (.wake false), .env (.interrupt true)] },
        { base with mode := .sleeping, intcon := 0x12#8, turns := [.env (.wake false)] }],
      s.mode = .sleeping ∧ irq false s = true ∧ s.turns = .env (.wake false) :: s.turns.tail) ∧
      { base with intcon := 0x92#8 }.intcon.getLsbD 7 = true ∧ irq false { base with mode := .sleeping } = false ∧
      base.mode = .running := by decide

/-- R174: no request, no wake-up; no wake-up of a running machine. -/
theorem test_wake_in_vain :
    moves (.wake true) { base with mode := .sleeping } (fun t => t.mode = .sleeping ∧ t.status = 0x18#8) = true ∧
      moves (.wake false) { base with intcon := 0x12#8 } (fun t => t.status = 0x18#8) = true := by decide

/-- The four clauses: not enabled; running and armed; running and not armed; sleeping. -/
theorem test_witness_WatchdogTimeout :
    base.cfg.wdtEnabled = false ∧
      (∀ s ∈ [{ base with cfg := { defaultConfig with wdtEnabled := true }, wdtArmed := true },
          { base with cfg := { defaultConfig with wdtEnabled := true } },
          { base with cfg := { defaultConfig with wdtEnabled := true }, mode := .sleeping }],
        s.cfg.wdtEnabled = true) ∧
      { base with turns := [.env .wdtTimeout] }.turns = .env .wdtTimeout :: [] := by decide

theorem test_witness_ExternalResets :
    { base with turns := [.env .mclr] }.turns = .env .mclr :: [] ∧
      { base with turns := [.env .brownOut] }.turns = .env .brownOut :: [] := by decide

theorem test_witness_EnvironmentLeavesTheProgramState :
    (∃ t, envMove .wdtTimeout { base with mode := .sleeping, cfg := { defaultConfig with wdtEnabled := true } } =
      .next t) ∧ (∃ t, envMove (.interrupt true) { base with intcon := 0xC0#8 } = .next t) ∧
      { base with turns := [.env (.raise .intf)] }.turns = .env (.raise .intf) :: [] := ⟨⟨_, rfl⟩, ⟨_, rfl⟩, rfl⟩

/-- R162, R174: INTF is set in SLEEP, with its enable off; log 13: T0IF is not. -/
theorem test_raise_in_sleep :
    moves (.raise .intf) { base with mode := .sleeping, intcon := 0x00#8 }
        (fun t => t.intcon = 0x02#8 ∧ t.mode = .sleeping) = true ∧
      moves (.raise .t0if) { base with mode := .sleeping, intcon := 0x00#8 } (fun t => t.intcon = 0x00#8) = true := by
  decide

theorem test_witness_PowerOnResetDuringARun :
    { base with turns := [.env .powerOn, .core] }.turns = .env .powerOn :: [.core] := by decide

end Sys2Proof.Tests
end

/-! ### The classes of the data addresses -/

namespace Sys2Proof.Machine

/-- The low seven bits of the address `k : f` are `f` (R42). -/
@[simp] theorem low_bits_of_bank_append (k : BitVec 2) (f : FileNo) : (k ++ f).extractLsb' 0 7 = f := by
  rw [BitVec.extractLsb'_append_eq_of_add_le (by omega), BitVec.extractLsb'_eq_self]

/-- The map of R48 answers physical cells: a cell is its own first address. -/
theorem ramCell_physical {map : RamMap} {a : DataAddr} {c : Nat} (h : ramCell map a = some c) :
    c < 2 ^ 9 ∧ ramCell map (BitVec.ofNat 9 c) = some c := by
  have ha := a.isLt
  cases map <;> simp only [ramCell, BitVec.toNat_ofNat] at h ⊢ <;> grind (splits := 20)

/-- No general purpose register lies below 0x10 of its bank (R48). -/
theorem ramCell_low_bits {map : RamMap} {a : DataAddr} {c : Nat} (h : ramCell map a = some c) :
    0x10 ≤ (a.extractLsb' 0 7).toNat := by
  simp only [BitVec.extractLsb'_toNat, Nat.shiftRight_zero]
  have ha := a.isLt
  cases map <;> simp only [ramCell] at h <;> grind (splits := 20)

/-- An address of class `ram c` is one of the map's addresses of the cell `c`. -/
theorem ramCell_of_classOf {s : State} {a : DataAddr} {c : Nat} (h : s.classOf a = .ram c) :
    ramCell s.cfg.ramMap a = some c := by
  unfold State.classOf fileClass at h
  grind

/-- The general purpose registers are the addresses of the map. -/
theorem classOf_eq_ram_iff {s : State} {a : DataAddr} {c : Nat} :
    s.classOf a = .ram c ↔ ramCell s.cfg.ramMap a = some c := by
  refine ⟨ramCell_of_classOf, fun h => ?_⟩
  have hlow := ramCell_low_bits h
  have hne : ∀ f : FileNo, f.toNat < 0x10 → a.extractLsb' 0 7 ≠ f := by
    rintro f hf rfl
    omega
  simp only [State.classOf, fileClass, h]
  simp [hne, indfNo, pclNo, statusNo, fsrNo, pclathNo, intconNo, timerNo]

/-- Address 0x01 of a bank is TMR0 or OPTION_REG by bit 7 of the address (R26). -/
theorem classOf_of_timer {s : State} {a : DataAddr} (h : a.extractLsb' 0 7 = 0x01#7) :
    s.classOf a = if a.getLsbD 7 then .optionReg else .tmr0 := by
  simp [State.classOf, fileClass, h, indfNo, pclNo, statusNo, fsrNo, pclathNo, intconNo, timerNo]

/-- Any other address of the device class is a peripheral register or unimplemented (R49). -/
theorem classOf_of_device {s : State} {a : DataAddr} (h : DeviceAddr a s) (ht : a.extractLsb' 0 7 ≠ 0x01#7) :
    s.classOf a = .device := by
  obtain ⟨hram, h0, h2, h3, h4, hA, hB⟩ := h
  simp [State.classOf, fileClass, hram, h0, h2, h3, h4, hA, hB, ht, indfNo, pclNo, statusNo, fsrNo, pclathNo, intconNo,
    timerNo]

theorem classOf_isDevice {s : State} {a : DataAddr} (h : DeviceAddr a s) : (s.classOf a).isDevice = true := by
  by_cases ht : a.extractLsb' 0 7 = 0x01#7
  · rw [classOf_of_timer ht]
    split <;> rfl
  · rw [classOf_of_device h ht]
    rfl

/-- The two timer registers stand at address 0x01 of a bank and nowhere else. -/
theorem timer_of_classOf {s : State} {a : DataAddr} (h : s.classOf a = .tmr0 ∨ s.classOf a = .optionReg) :
    a.extractLsb' 0 7 = 0x01#7 := by
  unfold State.classOf fileClass at h
  grind [timerNo]

/-- A device-class read answers the next free value (R49). -/
theorem fileValue_of_device {f : FileNo} {s : State} (h : DeviceAddr (dataAddr f s) s) :
    fileValue f s = Config.freeByte s.draws := by
  have hd := classOf_isDevice h
  unfold fileValue dataRead
  cases hk : s.classOf (dataAddr f s) with
  | tmr0 | optionReg | device => rfl
  | indf | pcl | status | fsr | pclath | intcon | ram => simp [hk] at hd

theorem classOf_status_address (k : BitVec 2) (s : State) : s.classOf (k ++ 0x03#7) = .status := by
  simp [State.classOf, fileClass, indfNo, pclNo, statusNo]

end Sys2Proof.Machine

/-! ### The invariant, kept by every step -/

namespace Sys2Proof.Machine

/-- A write to a cell of the map keeps the RAM canonical and on its map. -/
theorem setRam_inv {s : State} {a : DataAddr} {c : Nat} (v : Byte) (hc : ramCell s.cfg.ramMap a = some c)
    (h : s.Inv) : (s.setRam c v).Inv := by
  obtain ⟨hwf, hmap, hprog, hstack⟩ := h
  refine ⟨ramWrite_wf c v hwf, fun x hx => ?_, hprog, hstack⟩
  rcases ramWrite_mem hx with rfl | hx
  · exact ramCell_physical hc
  · exact hmap x hx

theorem dataWrite_inv {s : State} (a : DataAddr) (v : Byte) (aff : FlagSet) (h : s.Inv) :
    (dataWrite a v aff s).Inv := by
  unfold dataWrite
  cases hk : s.classOf a with
  | ram c => exact setRam_inv v (ramCell_of_classOf hk) h
  | indf | pcl | status | fsr | pclath | intcon | tmr0 | optionReg | device => exact h

theorem storeDest_inv {s : State} (a : DataAddr) (d : Dest) (v : Byte) (aff : FlagSet) (h : s.Inv) :
    (storeDest a d v aff s).Inv := by
  cases d with
  | w => exact h
  | f => exact dataWrite_inv a v aff h

theorem dataRead_inv {s : State} (a : DataAddr) (h : s.Inv) : (dataRead a s).2.Inv := by
  rw [dataRead_state]
  exact h

section
variable {s t : State} (hs : s.Inv)
include hs

theorem readModifyStore_inv {f : FileNo} {d : Dest} {aff : FlagSet} {op : Byte → AluResult}
    (h : readModifyStore f d aff op s = .next t) : t.Inv := by
  rw [readModifyStore_eq] at h
  cases h
  refine storeDest_inv (s := ((dataRead (dataAddr f s) s).2.retire _).setPc _) _ d _ aff ?_
  exact dataRead_inv _ hs

theorem storeOnly_inv {f : FileNo} {aff : FlagSet} {r : AluResult} (h : storeOnly f aff r s = .next t) : t.Inv := by
  cases h
  exact dataWrite_inv (s := (s.retire _).advance) _ _ aff hs

theorem storeAndSkip_inv {f : FileNo} {d : Dest} {op : Byte → Byte} (h : storeAndSkip f d op s = .next t) :
    t.Inv := by
  cases hw : writesPcl (dataAddr f s) d s with
  | true => simp [storeAndSkip, hw] at h
  | false =>
    rw [storeAndSkip_eq f d op s hw] at h
    cases h
    refine storeDest_inv (s := ((dataRead (dataAddr f s) s).2.retire _).setPc _) _ d _ _ ?_
    exact dataRead_inv _ hs

theorem testBitAndSkip_inv {f : FileNo} {b : Nat} {value : Bool} (h : testBitAndSkip f b value s = .next t) :
    t.Inv := by
  rw [testBitAndSkip_eq] at h
  cases h
  exact dataRead_inv (dataAddr f s) hs

theorem storeW_inv {aff : FlagSet} {r : AluResult} (h : storeW aff r s = .next t) : t.Inv := by
  cases h
  exact hs

/-- A push keeps eight entries in all: below the limit the last stale entry goes, at it the oldest entry. -/
theorem push_inv {v : CodeAddr} (h : push v s = some t) : t.Inv := by
  obtain ⟨hwf, hmap, hprog, hstack⟩ := hs
  simp only [stackDepth] at hstack
  rcases push_cases h with ⟨hlt, rfl⟩ | ⟨hle, -, rfl⟩
  all_goals
    refine ⟨hwf, hmap, hprog, ?_⟩
    simp only [stackDepth, List.length_cons, List.length_dropLast] at *
    omega

/-- A pop keeps eight entries in all: the popped one becomes the last stale one. -/
theorem pop_inv {a : CodeAddr} (h : pop s = some (a, t)) : t.Inv := by
  obtain ⟨hwf, hmap, hprog, hstack⟩ := hs
  rcases pop_cases h with ⟨rest, hst, rfl⟩ | ⟨rest, -, -, hst, rfl⟩
  all_goals
    refine ⟨hwf, hmap, hprog, ?_⟩
    simp only [hst, List.length_cons, List.length_append, List.length_nil] at hstack ⊢
    omega

theorem ControlNext.inv {i : Instr} (h : ControlNext s i t) : t.Inv := by
  cases h with
  | call k u hp => exact push_inv (s := s.retire 2) (t := u) hs hp
  | retn a u hp => exact pop_inv (s := s.retire 2) (t := u) hs hp
  | retlw k a u hp => exact pop_inv (s := (s.setW k).retire 2) (t := u) hs hp
  | retfie a u hp => exact pop_inv (s := s.retire 2) (t := u) hs hp
  | goto | clrwdt | sleep => exact hs

theorem exec_inv {i : Instr} (h : exec i s = .next t) : t.Inv := by
  cases i with
  | addwf | andwf | comf | decf | incf | iorwf | movf | rlf | rrf | subwf | swapf | xorwf | bcf | bsf =>
    simp only [exec, execAddwf, execAndwf, execComf, execDecf, execIncf, execIorwf, execMovf, execRlf, execRrf,
      execSubwf, execSwapf, execXorwf, execBcf, execBsf] at h
    exact readModifyStore_inv hs h
  | clrf | movwf =>
    simp only [exec, execClrf, execMovwf] at h
    exact storeOnly_inv hs h
  | decfsz | incfsz =>
    simp only [exec, execDecfsz, execIncfsz] at h
    exact storeAndSkip_inv hs h
  | btfsc | btfss =>
    simp only [exec, execBtfsc, execBtfss] at h
    exact testBitAndSkip_inv hs h
  | clrw | addlw | andlw | iorlw | movlw | sublw | xorlw =>
    simp only [exec, execClrw, execAddlw, execAndlw, execIorlw, execMovlw, execSublw, execXorlw] at h
    exact storeW_inv hs h
  | nop => cases h; exact hs
  | call | goto | retn | retlw | retfie | clrwdt | sleep =>
    rcases exec_cases h with hc | ⟨e, -, hf⟩
    · exact hc.inv hs
    · cases hf.notControl

/-- The eight free addresses that a reset leaves above the empty stack (log 8) are the eight entries of R15. -/
theorem resetCore_inv : (resetCore s).Inv := by
  obtain ⟨hwf, hmap, hprog, -⟩ := hs
  exact ⟨hwf, hmap, hprog, by simp [resetCore]⟩

theorem resetPowerOn_inv : (resetPowerOn s).Inv := by
  obtain ⟨-, -, hprog, -⟩ := hs
  exact ⟨reset_ram_wf, by simp [resetPowerOn, State.reset], hprog, by simp [resetPowerOn, State.reset]⟩

theorem takeInterrupt_inv (h : takeInterrupt s = .next t) : t.Inv := by
  unfold takeInterrupt at h
  split at h
  · cases h
  · rename_i u hp
    cases h
    exact push_inv (s := s.setGie false) (t := u) hs hp

theorem envMove_inv {move : Move} (h : envMove move s = .next t) : t.Inv := by
  cases move with
  | raise flag =>
    cases h
    unfold raiseFlag
    split <;> exact hs
  | interrupt periph =>
    simp only [envMove] at h
    split at h
    · exact takeInterrupt_inv hs h
    · cases h; exact hs
  | wake periph =>
    cases h
    split <;> exact hs
  | wdtTimeout =>
    simp only [envMove] at h
    split at h
    · split at h
      · cases h; exact resetCore_inv (s := s) hs
      · cases h; exact hs
    · cases h; exact hs
  | mclr =>
    simp only [envMove] at h
    split at h <;> cases h <;> exact resetCore_inv (s := s) hs
  | brownOut => cases h; exact resetCore_inv (s := s) hs
  | powerOn => cases h; exact resetPowerOn_inv hs

end

/-- Settles O11: the empty memories are canonical, and the eight entries are all stale. -/
theorem resetIsWellFormed : Obligations.ResetIsWellFormed := by
  unfold Obligations.ResetIsWellFormed
  decide

/-- Settles O12: a step is an idle turn, an instruction or a move of the environment, and each keeps the invariant. -/
theorem everyStepKeepsTheInvariant : Obligations.EveryStepKeepsTheInvariant := by
  intro s t hs h
  rcases step_cases h with ⟨-, rest, rfl⟩ | ⟨i, rest, -, hx⟩ | ⟨move, rest, -, hm⟩
  · exact hs
  · exact exec_inv (s := { s with turns := rest }) hs hx
  · exact envMove_inv (s := { s with turns := rest }) hs hm

end Sys2Proof.Machine

/-! ### Registers and shared operations -/

namespace Sys2Proof.Machine

/-- Settles O14: the carries of R17 as inequalities, from the laws of `add8`. -/
theorem additionAndItsCarries : Obligations.AdditionAndItsCarries := by
  intro a b
  simp [add8_val, add8_c, add8_dc, AluResult.z]

/-- Settles O15: the carries of `a + ~b + 1` are the complements of the borrows. -/
theorem subtractionAndItsBorrows : Obligations.SubtractionAndItsBorrows := by
  refine ⟨fun a b => ⟨?_, ?_, ?_, ?_⟩, fun a => ?_, fun a => ?_⟩
  · rw [sub8_val, BitVec.toNat_sub]
    omega
  · simp [sub8_c]
  · simp [sub8_dc]
  · simp [AluResult.z, sub8_val, BitVec.sub_eq_iff_eq_add]
  · simp [sub8_c, sub8_dc]
  · simp [sub8_c, sub8_dc, sub8_val, AluResult.z]

theorem dataRead_of_ram {s : State} {a : DataAddr} {c : Nat} (h : ramCell s.cfg.ramMap a = some c) :
    dataRead a s = (ramRead s.ram c, s) := by simp [dataRead, classOf_eq_ram_iff.mpr h]

theorem dataWrite_of_ram {s : State} {a : DataAddr} {c : Nat} (h : ramCell s.cfg.ramMap a = some c) (v : Byte)
    (aff : FlagSet) : dataWrite a v aff s = s.setRam c v := by simp [dataWrite, classOf_eq_ram_iff.mpr h]

/-- Settles O20: both addresses reach their cells of the RAM, and a write to a cell changes that cell only. -/
theorem ramReturnsTheLastValueWritten : Obligations.RamReturnsTheLastValueWritten := by
  intro a b c d v aff s ha hb
  have hb' : ramCell (s.setRam c v).cfg.ramMap b = some d := hb
  rw [dataWrite_of_ram ha]
  refine ⟨?_, ?_, rfl⟩
  · simp [dataRead_of_ram hb', dataRead_of_ram hb, ramRead_write, eq_comm]
  · rw [dataRead_of_ram hb']

theorem dataWrite_of_status (k : BitVec 2) (v : Byte) (aff : FlagSet) (s : State) :
    dataWrite (k ++ 0x03#7) v aff s = writeStatus v aff s := by simp [dataWrite, classOf_status_address]

/-- STATUS after CLRF STATUS, `000u u1uu` (R20). -/
theorem packStatus_cleared (s : State) :
    packStatus 0#3 s.flagTO s.flagPD true s.flagDC s.flagC = (s.status &&& 0x1B#8) ||| 0x04#8 := by
  have h : ∀ v : Byte, packStatus 0#3 (v.getLsbD bitTO) (v.getLsbD bitPD) true (v.getLsbD bitDC) (v.getLsbD bitC) =
      (v &&& 0x1B#8) ||| 0x04#8 := by decide
  exact h s.status

theorem exec_clrf_status (s : State) :
    exec (.clrf 0x03#7) s = .next (affectFlags .onlyZ (plain 0#8)
      (writeStatus 0#8 .onlyZ (s.retire (destCycles (s.bank ++ 0x03#7) .f s)).advance)) := by
  rw [← dataWrite_of_status s.bank]
  rfl

/-- Settles O21: the write to STATUS, and then the flags that the instruction affects. -/
theorem fileWritesToStatus : Obligations.FileWritesToStatus := by
  refine ⟨fun k v aff r s => ?_, fun s => ⟨_, exec_clrf_status s, ?_⟩⟩
  · simp [dataWrite_of_status, FlagSet.none, bitZ, bitDC, bitC]
  · rw [← packStatus_cleared]
    simp [statusAffected, FlagSet.onlyZ, FlagSet.none, plain, AluResult.z]

end Sys2Proof.Machine

/-! ### The stack, PCL and the ports -/

namespace Sys2Proof.Machine

theorem cellsLookup_eq_none {α : Type} {m : List (Nat × α)} {a : Nat} (h : ∀ x ∈ m, x.1 ≠ a) :
    cellsLookup m a = none := by
  induction m with
  | nil => rfl
  | cons y rest ih =>
    obtain ⟨hy, hrest⟩ := List.forall_mem_cons.mp h
    simp [cellsLookup, Ne.symm hy, ih hrest]

/-- Settles O3: in both cases the fetch finds no word. -/
theorem fetchOutsideProgramFaults : Obligations.FetchOutsideProgramFaults := by
  intro s hm hc hp
  refine step_no_word hc hm ?_
  unfold fetch
  split
  · rename_i hlt
    exact cellsLookup_eq_none (hp.resolve_left (by omega))
  · rfl

/-! #### Push and Pop -/

theorem push_of_full_fault {v : CodeAddr} {s : State} (h : 8 ≤ s.stack.length) (hw : s.cfg.stackWrap = .fault) :
    push v s = none := by simp [push, stackDepth, hw, Nat.not_lt.mpr h]

theorem push_of_full_circular {v : CodeAddr} {s : State} (h : s.stack.length = 8)
    (hw : s.cfg.stackWrap = .circular) : push v s = some { s with stack := v :: s.stack.take 7 } := by
  simp [push, stackDepth, hw, h, List.dropLast_eq_take]

theorem pop_of_empty_fault {s : State} (h : s.stack = []) (hw : s.cfg.stackWrap = .fault) : pop s = none := by
  simp [pop, h, hw]

theorem pop_of_empty_circular {s : State} {a : CodeAddr} {rest : List CodeAddr} (h : s.stack = [])
    (hw : s.cfg.stackWrap = .circular) (hst : s.stale = a :: rest) :
    pop s = some (a, { s with stale := rest ++ [a] }) := by simp [pop, h, hw, hst]

/-- `PCLATH[4:3] : k` as a number (R142, R144). -/
theorem jumpTarget_toNat (s : State) (k : BitVec 11) :
    (s.jumpTarget k).toNat = s.pclath.toNat / 8 * 2048 + k.toNat := by
  have hp := s.pclath.isLt
  simp only [State.jumpTarget, BitVec.toNat_append, BitVec.extractLsb'_toNat, Nat.shiftRight_eq_div_pow]
  rw [← Nat.shiftLeft_add_eq_or_of_lt k.isLt, Nat.shiftLeft_eq]
  omega

theorem exec_call_of_push {k : BitVec 11} {s t : State} (h : push (s.pc + 1) (s.retire 2) = some t) :
    exec (.call k) s = .next (t.setPc (s.jumpTarget k)) := by simp only [exec, execCall, h]

theorem exec_retn_of_pop {s t : State} {a : CodeAddr} (h : pop (s.retire 2) = some (a, t)) :
    exec .retn s = .next (t.setPc a) := by simp only [exec, execRetn, popAndGo, h]

theorem exec_retlw_of_pop {k : Byte} {s t : State} {a : CodeAddr} (h : pop ((s.setW k).retire 2) = some (a, t)) :
    exec (.retlw k) s = .next (t.setPc a) := by simp [exec, execRetlw, popAndGo, h]

theorem exec_retfie_of_pop {s t : State} {a : CodeAddr} (h : pop (s.retire 2) = some (a, t)) :
    exec .retfie s = .next ((t.setPc a).setGie true) := by simp [exec, execRetfie, returnFromInterrupt, h]

/-- Settles O22: each clause is one case of `push` or `pop`; CALL and the returns run on the state after it. -/
theorem stackPushesAndPops : Obligations.StackPushesAndPops := by
  refine ⟨fun v s h => ⟨_, push_of_lt h, rfl, pop_of_cons rfl⟩, fun v s => push_of_full_fault,
    fun s => pop_of_empty_fault, fun v s h hw => ⟨_, push_of_full_circular h hw, rfl⟩, fun s hs h hw => ?_,
    fun k s h hw => ?_, fun k a rest s h hw hst => ⟨?_, ?_, ?_⟩⟩
  · obtain ⟨-, -, -, hdepth⟩ := hs
    cases hst : s.stale with
    | nil => simp [h, hst, stackDepth] at hdepth
    | cons a rest => exact ⟨a, _, pop_of_empty_circular h hw hst, rfl, h⟩
  · refine ⟨_, exec_call_of_push (push_of_full_circular (s := s.retire 2) h hw), jumpTarget_toNat s k, rfl, rfl, rfl,
      rfl, ?_⟩
    constructor <;> rfl
  · refine ⟨_, exec_retn_of_pop (pop_of_empty_circular (s := s.retire 2) h hw hst), rfl, h, rfl, rfl, rfl, ?_⟩
    constructor <;> rfl
  · refine ⟨_, exec_retlw_of_pop (pop_of_empty_circular (s := (s.setW k).retire 2) h hw hst), rfl, h, rfl, rfl, rfl,
      ?_⟩
    constructor <;> rfl
  · refine ⟨_, exec_retfie_of_pop (pop_of_empty_circular (s := s.retire 2) h hw hst), rfl, h, rfl, rfl, rfl, ?_⟩
    constructor <;> rfl

/-! #### PCL -/

/-- A read of PCL answers the low byte of pc + 1 (R22). -/
theorem fileValue_of_pcl {f : FileNo} {s : State} (h : s.classOf (dataAddr f s) = .pcl) :
    fileValue f s = (s.pc + 1).extractLsb' 0 8 := by simp [fileValue, dataRead, h]

theorem pcl_target_toNat (s : State) (v : Byte) : (s.pclath ++ v).toNat = pclTarget s v := by
  rw [BitVec.toNat_append, ← Nat.shiftLeft_add_eq_or_of_lt v.isLt, Nat.shiftLeft_eq]
  rfl

/-- Settles O23, from the effects of the shared shapes of operation. -/
theorem pclReadsAndWrites : Obligations.PclReadsAndWrites := by
  intro f s hk
  refine ⟨?_, ?_, ?_, ?_⟩
  · obtain ⟨t, ht, he⟩ := readModifyStore_effect f .w .onlyZ (fun v => plain v) s
    refine ⟨t, ht, ?_, by simpa [destEffect, Effect.writes] using he.holds.pc⟩
    have hw : t.w = (s.pc + 1).extractLsb' 0 8 := by simpa [destEffect, plain, fileValue_of_pcl hk] using he.holds.w
    simp [hw, BitVec.extractLsb'_toNat]
  · obtain ⟨t, ht, he⟩ := storeOnly_effect f .none s.w s
    refine ⟨t, ht, ?_, by simpa [storeEffect, Effect.writes, hk] using he.holds.pclath⟩
    have hpc : t.pc = s.pclath ++ s.w := by simpa [storeEffect, Effect.writes, Effect.byte, hk] using he.holds.pc
    rw [hpc, pcl_target_toNat]
  · simpa [hk, exec, execIncfsz] using storeAndSkip_effect f .f (fun v => v + 1) s
  · simpa [hk, exec, execDecfsz] using storeAndSkip_effect f .f (fun v => v - 1) s

/-! #### Ports -/

theorem one_shiftLeft_eq_ofNat (b : Nat) : 1#8 <<< b = BitVec.ofNat 8 (2 ^ b) := by
  apply BitVec.eq_of_toNat_eq
  simp [Nat.shiftLeft_eq]

/-- A read-modify-write of a device-class register leaves in its latch what it makes of the value read (R27). -/
theorem readModifyStore_latch {f : FileNo} {s : State} (h : DeviceAddr (dataAddr f s) s) (aff : FlagSet)
    (op : Byte → AluResult) :
    ∃ t, readModifyStore f .f aff op s = .next t ∧
      t.latch (dataAddr f s) = some (op (Config.freeByte s.draws)).val := by
  obtain ⟨t, ht, he⟩ := readModifyStore_effect f .f aff op s
  have hout := he.holds.outputs
  simp only [destEffect, fileValue_of_device h, classOf_isDevice h, Effect.byte] at hout
  exact ⟨t, ht, by simp [State.latch, hout]⟩

/-- TMR0 is address 0x01 of banks 0 and 2, OPTION_REG that of banks 1 and 3 (R26). -/
theorem classOf_timer_address (k : BitVec 2) (s : State) :
    s.classOf (k ++ 0x01#7) = if k = 0 ∨ k = 2 then .tmr0 else .optionReg := by
  have hbank : ∀ k : BitVec 2, (k ++ 0x01#7).getLsbD 7 = !decide (k = 0 ∨ k = 2) := by decide
  rw [classOf_of_timer (low_bits_of_bank_append k _), hbank]
  split <;> simp_all

/-- The timer registers by bit 7 of their address, 0x01 of a bank. -/
theorem classOf_eq_timer_iff {s : State} {a : DataAddr} (b : Bool) :
    s.classOf a = (if b then .optionReg else .tmr0) ↔ a.extractLsb' 0 7 = 0x01#7 ∧ a.getLsbD 7 = b := by
  constructor
  · intro h
    have hl : a.extractLsb' 0 7 = 0x01#7 := timer_of_classOf (s := s) (by cases b <;> simp [h])
    rw [classOf_of_timer hl] at h
    cases b <;> cases hb : a.getLsbD 7 <;> simp_all
  · rintro ⟨hl, rfl⟩
    exact classOf_of_timer hl

theorem classOf_eq_tmr0_iff {s : State} {a : DataAddr} : s.classOf a = .tmr0 ↔ a = 0x001#9 ∨ a = 0x101#9 := by
  refine (classOf_eq_timer_iff false).trans ?_
  revert a; decide

theorem classOf_eq_optionReg_iff {s : State} {a : DataAddr} :
    s.classOf a = .optionReg ↔ a = 0x081#9 ∨ a = 0x181#9 := by
  refine (classOf_eq_timer_iff true).trans ?_
  revert a; decide

/-- Settles O24: the read of a port is a free value and its write an output event; the timer registers are the two of
address 0x01. -/
theorem portsAreModifiedFromTheirPins : Obligations.PortsAreModifiedFromTheirPins := by
  refine ⟨fun f b s h _ => ⟨?_, ?_, ?_⟩, fun a v aff s h ht => ?_, fun k v aff s => ?_, fun a s => ?_⟩
  · exact readModifyStore_latch h .onlyZ (fun v => plain v)
  · rw [← one_shiftLeft_eq_ofNat]
    exact readModifyStore_latch h .none (fun v => plain (setBit v b))
  · rw [← one_shiftLeft_eq_ofNat]
    exact readModifyStore_latch h .none (fun v => plain (clearBit v b))
  · simp only [dataWrite, classOf_of_device h ht]
    rfl
  · by_cases hk : k = 0 ∨ k = 2
    · simp only [dataWrite, classOf_timer_address, if_pos hk]
      simp [State.emit, State.setTmr0, State.prescalerOnTimer0, bitPSA]
    · simp only [dataWrite, classOf_timer_address, if_neg hk]
      rfl
  · exact ⟨classOf_eq_tmr0_iff, classOf_eq_optionReg_iff⟩

end Sys2Proof.Machine

/-! ### What each instruction may change -/

namespace Sys2Proof.Machine

theorem push_frame {v : CodeAddr} {s t : State} (h : push v s = some t) :
    t = { s with stack := t.stack, stale := t.stale } := by
  rcases push_cases h with ⟨-, rfl⟩ | ⟨-, -, rfl⟩ <;> rfl

theorem pop_frame {a : CodeAddr} {s t : State} (h : pop s = some (a, t)) :
    t = { s with stack := t.stack, stale := t.stale } := by
  rcases pop_cases h with ⟨rest, -, rfl⟩ | ⟨rest, -, -, -, rfl⟩ <;> rfl

/-- What the seven control operations leave: PCLATH, and, but for those named, INTCON, W, STATUS and the stack. -/
structure ControlFrame (s : State) (i : Instr) (t : State) : Prop where
  pclath : t.pclath = s.pclath
  intcon : t.intcon = s.intcon ∨ (i = .retfie ∧ t.intcon = s.intcon ||| 0x80#8)
  w : t.w = s.w ∨ ∃ k, i = .retlw k
  flagC : t.flagC = s.flagC
  flagDC : t.flagDC = s.flagDC
  flagZ : t.flagZ = s.flagZ
  powerBits : (t.flagTO = s.flagTO ∧ t.flagPD = s.flagPD) ∨ i = .clrwdt ∨ i = .sleep
  stack : t.stack = s.stack ∨ (∃ k, i = .call k) ∨ i = .retn ∨ i = .retfie ∨ ∃ k, i = .retlw k

theorem ControlNext.frame {s t : State} {i : Instr} (h : ControlNext s i t) : ControlFrame s i t := by
  cases h with
  | call k u hp =>
    rw [push_frame hp]
    constructor <;> simp [State.flagC, State.flagDC, State.flagZ, State.flagTO, State.flagPD]
  | retn | retlw | retfie =>
    rename_i hp
    rw [pop_frame hp]
    constructor <;> simp [State.flagC, State.flagDC, State.flagZ, State.flagTO, State.flagPD, setBit, bitGIE]
  | goto | clrwdt | sleep =>
    constructor <;> simp [State.flagC, State.flagDC, State.flagZ, State.flagTO, State.flagPD]

/-- An effect that writes the register of class `k` is that of an instruction that writes it as a file register. -/
theorem Effect.Fits.writesFile {e : Effect} {i : Instr} {s : State} {k : FileClass} (hf : e.Fits i s)
    (hw : e.writes s k = true) : WritesFile i s k := by
  obtain ⟨hsome, hk⟩ := Bool.and_eq_true_iff.mp hw
  exact ⟨e.addr, by rw [hf.target, if_pos hsome], of_decide_eq_true hk⟩

/-- A field that an effect sets only by writing the register of class `k`: if it changed, that register was written. -/
theorem Effect.Fits.writesFile_of_changed {α : Type} {e : Effect} {i : Instr} {s : State} {k : FileClass} {x y z : α}
    (hf : e.Fits i s) (hx : x = if e.writes s k then y else z) (hne : x ≠ z) : WritesFile i s k := by
  refine hf.writesFile ?_
  by_contra hw
  exact hne (by rw [hx, if_neg hw])

/-- A flag that an effect changed is in the instruction's "Status Affected", or the instruction wrote STATUS. -/
theorem Effect.Fits.flag_of_changed {e : Effect} {i : Instr} {s : State} {affected p x y v z : Bool} (hf : e.Fits i s)
    (hx : x = if affected then v else if e.writes s .status && p then y else z) (hne : x ≠ z) :
    WritesFile i s .status ∨ affected = true := by
  cases affected with
  | true => exact .inr rfl
  | false =>
    refine .inl (hf.writesFile ?_)
    by_contra hw
    exact hne (by simp [hx, hw])

theorem statusColumn_c {i : Instr} (h : (statusColumn i).c = true) :
    ∃ f d k, i = .addwf f d ∨ i = .subwf f d ∨ i = .addlw k ∨ i = .sublw k ∨ i = .rlf f d ∨ i = .rrf f d := by
  cases i with
  | addwf f d | subwf f d | rlf f d | rrf f d => exact ⟨f, d, 0, by simp⟩
  | addlw k | sublw k => exact ⟨0, .w, k, by simp⟩
  | _ => cases h

theorem statusColumn_dc {i : Instr} (h : (statusColumn i).dc = true) :
    ∃ f d k, i = .addwf f d ∨ i = .subwf f d ∨ i = .addlw k ∨ i = .sublw k := by
  cases i with
  | addwf f d | subwf f d => exact ⟨f, d, 0, by simp⟩
  | addlw k | sublw k => exact ⟨0, .w, k, by simp⟩
  | _ => cases h

theorem statusColumn_z {i : Instr} (h : (statusColumn i).z = true) :
    ∃ f d k, i = .addwf f d ∨ i = .andwf f d ∨ i = .clrf f ∨ i = .clrw ∨ i = .comf f d ∨ i = .decf f d ∨
      i = .incf f d ∨ i = .iorwf f d ∨ i = .movf f d ∨ i = .subwf f d ∨ i = .xorwf f d ∨ i = .addlw k ∨ i = .andlw k ∨
      i = .iorlw k ∨ i = .sublw k ∨ i = .xorlw k := by
  cases i with
  | addwf f d | andwf f d | comf f d | decf f d | incf f d | iorwf f d | movf f d | subwf f d | xorwf f d =>
    exact ⟨f, d, 0, by simp⟩
  | clrf f => exact ⟨f, .w, 0, by simp⟩
  | clrw => exact ⟨0, .w, 0, by simp⟩
  | addlw k | andlw k | iorlw k | sublw k | xorlw k => exact ⟨0, .w, k, by simp⟩
  | _ => cases h

theorem destIsW_cases {i : Instr} (h : destIsW i = true) :
    i = .clrw ∨ ∃ f k, i = .movlw k ∨ i = .retlw k ∨ i = .addlw k ∨ i = .andlw k ∨ i = .iorlw k ∨ i = .sublw k ∨
      i = .xorlw k ∨ i = .addwf f .w ∨ i = .andwf f .w ∨ i = .comf f .w ∨ i = .decf f .w ∨ i = .decfsz f .w ∨
      i = .incf f .w ∨ i = .incfsz f .w ∨ i = .iorwf f .w ∨ i = .movf f .w ∨ i = .rlf f .w ∨ i = .rrf f .w ∨
      i = .subwf f .w ∨ i = .swapf f .w ∨ i = .xorwf f .w := by
  cases i with
  | clrw => exact .inl rfl
  | movlw k | retlw k | addlw k | andlw k | iorlw k | sublw k | xorlw k => exact .inr ⟨0, k, by simp⟩
  | addwf f d | andwf f d | comf f d | decf f d | decfsz f d | incf f d | incfsz f d | iorwf f d | movf f d | rlf f d
  | rrf f d | subwf f d | swapf f d | xorwf f d =>
    obtain rfl : d = .w := of_decide_eq_true h
    exact .inr ⟨f, 0, by simp⟩
  | _ => cases h

/-- Settles O45: the control operations change TO and PD only; any other change is in the effect. -/
theorem onlyTheListedInstructionsChangeFlags : Obligations.OnlyTheListedInstructionsChangeFlags := by
  intro i s t h
  rcases exec_cases h with hc | ⟨e, he, hf⟩
  · have hk := hc.frame
    refine ⟨fun hne => absurd hk.flagC hne, fun hne => absurd hk.flagDC hne, fun hne => absurd hk.flagZ hne,
      fun hne => ?_⟩
    exact hk.powerBits.resolve_left fun ⟨hto, hpd⟩ => hne.elim (absurd hto) (absurd hpd)
  · have hx := he.holds
    refine ⟨fun hne => ?_, fun hne => ?_, fun hne => ?_, fun hne => ?_⟩
    · exact (hf.flag_of_changed hx.flagC hne).imp_right fun ha => statusColumn_c (hf.aff ▸ ha)
    · exact (hf.flag_of_changed hx.flagDC hne).imp_right fun ha => statusColumn_dc (hf.aff ▸ ha)
    · exact (hf.flag_of_changed hx.flagZ hne).imp_right fun ha => statusColumn_z (hf.aff ▸ ha)
    · exact hne.elim (absurd hx.timeOut) (absurd hx.powerDown)

/-- Settles O46: no control operation writes PCLATH, and an effect does so as a file register only. -/
theorem onlyAFileWriteChangesPclath : Obligations.OnlyAFileWriteChangesPclath := by
  intro i s t h hne
  rcases exec_cases h with hc | ⟨e, he, hf⟩
  · exact absurd hc.frame.pclath hne
  · exact hf.writesFile_of_changed he.holds.pclath hne

/-- Settles O47: of the control operations only RETFIE writes INTCON. -/
theorem onlyRetfieAndFileWritesChangeIntcon : Obligations.OnlyRetfieAndFileWritesChangeIntcon := by
  intro i s t h hne
  rcases exec_cases h with hc | ⟨e, he, hf⟩
  · exact .inr (hc.frame.intcon.resolve_left hne)
  · exact .inl (hf.writesFile_of_changed he.holds.intcon hne)

/-- Settles O48: of the control operations only RETLW writes W. -/
theorem onlyTheListedInstructionsChangeW : Obligations.OnlyTheListedInstructionsChangeW := by
  intro i s t h hne
  refine destIsW_cases ?_
  rcases exec_cases h with hc | ⟨e, he, hf⟩
  · obtain ⟨k, rfl⟩ := hc.frame.w.resolve_left hne
    rfl
  · rw [← hf.toW, Option.isSome_iff_ne_none]
    intro hnone
    exact hne (by simpa [hnone] using he.holds.w)

/-- Settles O49: only the control operations reach the stack. -/
theorem onlyCallsAndReturnsChangeTheStack : Obligations.OnlyCallsAndReturnsChangeTheStack := by
  intro i s t h hne
  rcases exec_cases h with hc | ⟨e, he, -⟩
  · exact hc.frame.stack.resolve_left hne
  · exact absurd he.holds.stack hne

end Sys2Proof.Machine

/-! ### SLEEP and the resets -/

namespace Sys2Proof.Machine

/-- The core's turn of a sleeping machine is used up and does nothing else (R25). -/
theorem step_core_asleep {s : State} {rest : List Turn} (hs : s.mode = .sleeping) (ht : s.turns = .core :: rest) :
    step s = .next { s with turns := rest } := by
  rw [step_core_turn ht]
  exact coreTurn_sleeping (s := { s with turns := rest }) hs

/-- A machine at rest sleeps on: the next step is the turn's idle step or a move that wakes and resets nothing. -/
theorem step_of_atRest {periph : Bool} {s : State} (h : atRest periph s = true) :
    ∃ t, step s = .next t ∧ atRest periph t = true ∧ t = { s with turns := s.turns.tail, intcon := t.intcon } := by
  unfold atRest at h
  have hs := (asleep_of_restsFor h).1
  cases hturns : s.turns with
  | nil =>
    refine ⟨s, by rw [step_no_turns hturns, coreTurn_sleeping hs], h, ?_⟩
    rw [List.tail_nil, ← hturns]
  | cons x rest =>
    rw [hturns, List.length_cons] at h
    obtain ⟨t, hstep, hrest⟩ := step_of_restsFor h
    have ht : t = { s with turns := rest, intcon := t.intcon } := by
      cases x with
      | core =>
        rw [step_core_asleep hs hturns] at hstep
        cases hstep
        rfl
      | env move =>
        rw [step_env_turn hturns] at hstep
        exact (envMove_asleep (s := { s with turns := rest }) hs hstep (asleep_of_restsFor hrest).1).1
    refine ⟨t, hstep, ?_, ht⟩
    have hlen : t.turns = rest := by rw [ht]
    rwa [atRest, hlen]

/-- The turn that a machine at rest comes to is no reset. -/
theorem head_of_atRest {periph : Bool} {s : State} {x : Turn} {rest : List Turn} (h : atRest periph s = true)
    (hturns : s.turns = x :: rest) : x ≠ .env .mclr ∧ x ≠ .env .brownOut ∧ x ≠ .env .powerOn := by
  have hs := (asleep_of_restsFor h).1
  obtain ⟨t, hstep, hrest, -⟩ := step_of_atRest h
  cases x with
  | core => simp
  | env move =>
    rw [step_env_turn hturns] at hstep
    simpa using (envMove_asleep (s := { s with turns := rest }) hs hstep (asleep_of_restsFor hrest).1).2

/-- No reset is to come for a machine at rest. -/
theorem no_reset_of_atRest {periph : Bool} {turns : List Turn} : ∀ {s : State}, s.turns = turns →
    atRest periph s = true → ∀ x ∈ turns, x ≠ .env .mclr ∧ x ≠ .env .brownOut ∧ x ≠ .env .powerOn := by
  induction turns with
  | nil => simp
  | cons x rest ih =>
    intro s hturns h
    obtain ⟨t, -, hrest, ht⟩ := step_of_atRest h
    have htail : t.turns = rest := by rw [ht, hturns, List.tail_cons]
    exact List.forall_mem_cons.mpr ⟨head_of_atRest h hturns, ih htail hrest⟩

/-- A sleeping machine with no wake-up event admitted that steps to a resting one rests. -/
theorem restsFor_succ {periph : Bool} {n : Nat} {s t : State} (hs : s.mode = .sleeping)
    (hw : wakeAdmitted periph s = false) (hstep : step s = .next t) (h : restsFor periph n t = true) :
    restsFor periph (n + 1) s = true := by
  unfold restsFor
  simp [hs, hw, hstep, h]

/-- With the core's turns alone to come, a machine rests that sleeps with no wake-up event admitted. -/
theorem atRest_of_core_turns {periph : Bool} {turns : List Turn} : ∀ {s : State}, s.turns = turns →
    (∀ x ∈ turns, x = .core) → s.mode = .sleeping → wakeAdmitted periph s = false → atRest periph s = true := by
  induction turns with
  | nil =>
    intro s hturns _ hs hw
    simp [atRest, restsFor, hturns, hs, hw]
  | cons x rest ih =>
    intro s hturns hcore hs hw
    obtain ⟨rfl, hrest⟩ := List.forall_mem_cons.mp hcore
    have hnext : atRest periph { s with turns := rest } = true := ih rfl hrest hs hw
    rw [atRest, hturns]
    exact restsFor_succ hs hw (step_core_asleep hs hturns) hnext

/-- Settles O55, by induction on the scheduled turns: each keeps a machine at rest asleep. -/
theorem sleepingCoreKeepsItsState : Obligations.SleepingCoreKeepsItsState := by
  refine ⟨fun s hs => ⟨fun ht => ?_, fun rest => step_core_asleep hs⟩, fun endPc periph s hcore => ?_,
    fun periph s h => ?_⟩
  · rw [step_no_turns ht, coreTurn_sleeping hs]
  · have hrest : atRest periph s = true ↔ s.mode = .sleeping ∧ irq periph s = false ∧ s.cfg.wdtEnabled = false := by
      constructor
      · intro h
        obtain ⟨hs, hw⟩ := asleep_of_restsFor h
        rw [wakeAdmitted_asleep hs] at hw
        exact ⟨hs, Bool.or_eq_false_iff.mp hw⟩
      · rintro ⟨hs, hw⟩
        exact atRest_of_core_turns rfl hcore hs (by rw [wakeAdmitted_asleep hs]; exact Bool.or_eq_false_iff.mpr hw)
    simp [endOfRun, hrest]
  · exact ⟨no_reset_of_atRest rfl h, step_of_atRest h⟩

/-- STATUS after an MCLR reset in SLEEP, `0001 0uuu` (R31). -/
theorem packStatus_mclr_asleep (s : State) :
    packStatus 0b000#3 true false s.flagZ s.flagDC s.flagC = (s.status &&& 0x07#8) ||| 0x10#8 := by
  have h : ∀ v : Byte, packStatus 0b000#3 true false (v.getLsbD bitZ) (v.getLsbD bitDC) (v.getLsbD bitC) =
      (v &&& 0x07#8) ||| 0x10#8 := by decide
  exact h s.status

/-- A reset leaves GIE clear (R31, R190). -/
theorem resetCore_gie (s : State) : (resetCore s).gie = false := by
  simp [State.gie, resetCore, bitGIE]

/-- Settles O58: MCLR by mode, and brown-out as MCLR in normal operation. -/
theorem externalResets : Obligations.ExternalResets := by
  intro s rest move hmove hturns
  rw [step_env_turn hturns]
  by_cases hsleep : move = .mclr ∧ s.mode = .sleeping
  · obtain ⟨rfl, hm⟩ := hsleep
    refine ⟨resetInSleep { s with turns := rest }, by simp [envMove, hm], ?_⟩
    refine ⟨rfl, rfl, rfl, rfl, rfl, rfl, rfl, rfl, rfl, rfl, rfl, rfl, resetCore_gie _, ?_⟩
    rw [if_pos ⟨rfl, hm⟩, ← packStatus_mclr_asleep]
    rfl
  · have hstep : envMove move { s with turns := rest } = .next (resetNormal { s with turns := rest }) := by
      rcases hmove with rfl | rfl
      · cases hm : s.mode with
        | running => rfl
        | sleeping => exact absurd ⟨rfl, hm⟩ hsleep
      · rfl
    refine ⟨_, hstep, ?_⟩
    refine ⟨rfl, rfl, rfl, rfl, rfl, rfl, rfl, rfl, rfl, rfl, rfl, rfl, resetCore_gie _, ?_⟩
    rw [if_neg hsleep]
    rfl

/-- Settles O10: the record `State.reset` evaluated. -/
theorem powerOnResetValues : Obligations.PowerOnResetValues := by
  unfold Obligations.PowerOnResetValues
  decide

/-- Settles O60: the step is `resetPowerOn`, whose registers are State.reset's (O10). -/
theorem powerOnResetDuringARun : Obligations.PowerOnResetDuringARun := by
  intro s rest hturns
  obtain ⟨hpc, hmode, hstatus, hintcon, hpclath, hoption, hstack, hwdt, hpre⟩ := powerOnResetValues
  exact ⟨_, step_env_turn hturns, hpc, hmode, hstatus, hintcon, hpclath, hoption, hstack, hwdt, hpre, rfl⟩

end Sys2Proof.Machine

/-! ### Data addresses and what a read of each returns -/

namespace Sys2Proof.Machine

theorem toNat_append_eq_mul_add {m n : Nat} (x : BitVec m) (y : BitVec n) :
    (x ++ y).toNat = x.toNat * 2 ^ n + y.toNat := by
  rw [BitVec.toNat_append, ← Nat.shiftLeft_add_eq_or_of_lt y.isLt, Nat.shiftLeft_eq]

theorem bank_toNat (s : State) : s.bank.toNat = (s.status.getLsbD 6).toNat * 2 + (s.status.getLsbD 5).toNat := by
  have h : ∀ v : Byte, (v.extractLsb' 5 2).toNat = (v.getLsbD 6).toNat * 2 + (v.getLsbD 5).toNat := by decide
  exact h s.status

theorem irp_toNat (s : State) : s.irp.toNat = (s.status.getLsbD 7).toNat := by
  have h : ∀ v : Byte, (v.extractLsb' 7 1).toNat = (v.getLsbD 7).toNat := by decide
  exact h s.status

/-- `RP1 : RP0 : f` as a number (R42). -/
theorem dataAddr_direct_toNat {f : FileNo} (s : State) (hf : f ≠ 0x00#7) :
    (dataAddr f s).toNat = s.bank.toNat * 128 + f.toNat := by
  rw [dataAddr, indfNo, if_neg hf]
  exact toNat_append_eq_mul_add s.bank f

/-- `IRP : FSR` as a number (R43). -/
theorem dataAddr_indirect_toNat (s : State) : (dataAddr 0x00#7 s).toNat = s.irp.toNat * 256 + s.fsr.toNat := by
  rw [dataAddr, indfNo, if_pos rfl]
  exact toNat_append_eq_mul_add s.irp s.fsr

/-- Settles O16: the bank bits of STATUS as a number, and those of State.reset are 0. -/
theorem directAddressesUseTheBankBits : Obligations.DirectAddressesUseTheBankBits := by
  refine ⟨fun f s hf => ?_, fun f hf => ?_⟩
  · rw [dataAddr_direct_toNat s hf, bank_toNat]
    omega
  · have hbank : State.reset.bank.toNat = 0 := by decide
    rw [dataAddr_direct_toNat _ hf, hbank]
    omega

/-- The core registers of R46, which every bank has at the same low seven bits, with their classes. -/
def coreRegisters : List (FileNo × FileClass) :=
  [(0x00#7, .indf), (0x02#7, .pcl), (0x03#7, .status), (0x04#7, .fsr), (0x0A#7, .pclath), (0x0B#7, .intcon)]

/-- A core register stands at its low seven bits in every bank and nowhere else. -/
theorem classOf_eq_core_iff {f : FileNo} {c : FileClass} (hr : (f, c) ∈ coreRegisters) (a : DataAddr) (s : State) :
    s.classOf a = c ↔ a.extractLsb' 0 7 = f := by
  simp only [coreRegisters, List.mem_cons, Prod.mk.injEq, List.not_mem_nil, or_false] at hr
  unfold State.classOf fileClass
  rcases hr with ⟨rfl, rfl⟩ | ⟨rfl, rfl⟩ | ⟨rfl, rfl⟩ | ⟨rfl, rfl⟩ | ⟨rfl, rfl⟩ | ⟨rfl, rfl⟩ <;>
    grind [indfNo, pclNo, statusNo, fsrNo, pclathNo, intconNo]

/-- The class of a core register's address `k : f`, in any bank `k`. -/
theorem classOf_core_address {f : FileNo} {c : FileClass} (hr : (f, c) ∈ coreRegisters) (k : BitVec 2) (s : State) :
    s.classOf (k ++ f) = c := (classOf_eq_core_iff hr _ s).mpr (low_bits_of_bank_append k f)

/-- The device class is what R49 leaves: no general purpose register and no core register. -/
theorem classOf_isDevice_iff {a : DataAddr} {s : State} : (s.classOf a).isDevice = true ↔ DeviceAddr a s := by
  refine ⟨fun h => ?_, classOf_isDevice⟩
  have hram : ramCell s.cfg.ramMap a = none := by
    cases hc : ramCell s.cfg.ramMap a with
    | none => rfl
    | some c => simp [classOf_eq_ram_iff.mpr hc] at h
  have hcore : ∀ r ∈ coreRegisters, r.2.isDevice = false := by decide
  have hlow : ∀ r ∈ coreRegisters, a.extractLsb' 0 7 ≠ r.1 := by
    intro r hr hlow
    rw [(classOf_eq_core_iff hr a s).mpr hlow, hcore r hr] at h
    cases h
  exact ⟨hram, by simpa [coreRegisters] using hlow⟩

theorem dataRead_of_device {a : DataAddr} {s : State} (h : DeviceAddr a s) : dataRead a s = s.drawByte := by
  have hd := classOf_isDevice h
  unfold dataRead
  cases hk : s.classOf a with
  | tmr0 | optionReg | device => rfl
  | indf | pcl | status | fsr | pclath | intcon | ram => simp [hk] at hd

theorem pcl_byte_eq_ofNat (s : State) : (s.pc + 1).extractLsb' 0 8 = BitVec.ofNat 8 ((s.pc.toNat + 1) % 8192) := by
  apply BitVec.eq_of_toNat_eq
  simp [BitVec.extractLsb'_toNat, BitVec.toNat_add]

/-- The five bits of PCLATH under three zeros are PCLATH as a number (R46). -/
theorem pclath_byte_eq_ofNat (s : State) : 0b000#3 ++ s.pclath = BitVec.ofNat 8 s.pclath.toNat := by
  have hp := s.pclath.isLt
  apply BitVec.eq_of_toNat_eq
  simp only [toNat_append_eq_mul_add, BitVec.toNat_ofNat]
  omega

/-- Settles O18: `dataRead` at the class of each address, and the classes of all addresses. -/
theorem dataReadsByAddressClass : Obligations.DataReadsByAddressClass := by
  refine ⟨fun k s => ?_, fun a c s => dataRead_of_ram, fun a s => dataRead_of_device, fun a s => ?_⟩
  · have hcls : ∀ {f c}, (f, c) ∈ coreRegisters → s.classOf (k ++ f) = c := fun hr => classOf_core_address hr k s
    refine ⟨?_, ?_, ?_, ?_, ?_, ?_⟩
    · simp only [dataRead, hcls (f := 0x00#7) (c := .indf) (by decide)]
    · simp only [dataRead, hcls (f := 0x02#7) (c := .pcl) (by decide), pcl_byte_eq_ofNat]
    · simp only [dataRead, hcls (f := 0x03#7) (c := .status) (by decide)]
    · simp only [dataRead, hcls (f := 0x04#7) (c := .fsr) (by decide)]
    · simp only [dataRead, hcls (f := 0x0A#7) (c := .pclath) (by decide), pclath_byte_eq_ofNat]
    · simp only [dataRead, hcls (f := 0x0B#7) (c := .intcon) (by decide)]
  · have hcls : ∀ {f c}, (f, c) ∈ coreRegisters → (s.classOf a = c ↔ a.extractLsb' 0 7 = f) :=
      fun hr => classOf_eq_core_iff hr a s
    exact ⟨hcls (by decide), hcls (by decide), hcls (by decide), hcls (by decide), hcls (by decide), hcls (by decide),
      fun c => classOf_eq_ram_iff, classOf_isDevice_iff⟩

/-- INDF stands where the low seven bits of the address are 0. -/
theorem classOf_indf_of_toNat {a : DataAddr} (s : State) (h : a.toNat % 128 = 0) : s.classOf a = .indf := by
  refine (classOf_eq_core_iff (by decide) a s).mpr (?_ : _ = 0x00#7)
  apply BitVec.eq_of_toNat_eq
  simpa using h

/-- Settles O17: the address through FSR as a number, and INDF through itself is of class `indf`. -/
theorem indirectAddressesUseFsr : Obligations.IndirectAddressesUseFsr := by
  refine ⟨fun s => ?_, fun a s ha => ?_, fun s hs => ?_⟩
  · rw [dataAddr_indirect_toNat, irp_toNat]
  · have hk := classOf_indf_of_toNat s ha
    simp [dataRead, dataWrite, hk]
  · have hk : s.classOf (dataAddr 0x00#7 s) = .indf := by
      apply classOf_indf_of_toNat
      rw [dataAddr_indirect_toNat]
      omega
    obtain ⟨t, ht, he⟩ := storeOnly_effect 0x00#7 .onlyZ 0x00#8 s
    refine ⟨t, ht, ?_, fun c => ?_, ?_, ?_⟩
    · simpa [storeEffect, FlagSet.onlyZ] using he.holds.flagZ
    · simpa [storeEffect, Effect.writes, hk] using he.holds.ram c
    · simpa [storeEffect, Effect.writes, hk] using he.holds.fsr
    · simpa [storeEffect, hk] using he.holds.outputs

/-- The sixteen registers 0x70 to 0x7F are the same in all four banks of the PIC16F876/877 (R48). -/
theorem ramCell_pic876_common (k : BitVec 2) {f : FileNo} (hf : 0x70 ≤ f.toNat) :
    ramCell .pic876 (k ++ f) = some f.toNat := by
  have hk := k.isLt
  have hlt := f.isLt
  simp only [ramCell, toNat_append_eq_mul_add]
  split_ifs <;> grind

/-- Settles O19: on each range of R48 the cell is the address itself or its low eight or seven bits. -/
theorem ramMapOfBothVariants : Obligations.RamMapOfBothVariants := by
  refine ⟨fun a => ?_, fun a => ?_, fun k f hf => ramCell_pic876_common k hf⟩
  all_goals
    have ha := a.isLt
    simp only [ramCell]
    split_ifs <;> grind

end Sys2Proof.Machine

/-! ### Program memory and the environment -/

namespace Sys2Proof.Machine

theorem ControlNext.prog_cfg {s t : State} {i : Instr} (h : ControlNext s i t) : t.prog = s.prog ∧ t.cfg = s.cfg := by
  cases h with
  | call k u hp =>
    rw [push_frame hp]
    exact ⟨rfl, rfl⟩
  | retn a u hp | retlw k a u hp | retfie a u hp =>
    rw [pop_frame hp]
    exact ⟨rfl, rfl⟩
  | goto | clrwdt | sleep => exact ⟨rfl, rfl⟩

theorem exec_prog_cfg {s t : State} {i : Instr} (h : exec i s = .next t) : t.prog = s.prog ∧ t.cfg = s.cfg := by
  rcases exec_cases h with hc | ⟨e, he, -⟩
  · exact hc.prog_cfg
  · exact ⟨he.holds.prog, he.holds.cfg⟩

/-- What each move of the environment can answer, with its condition; `idle` is a move that changes nothing (log 10). -/
inductive EnvNext (s : State) : Move → State → Prop where
  | idle (move : Move) (h : envMove move s = .next s) : EnvNext s move s
  | raise (flag : IrqFlag) (h : ¬(flag = .t0if ∧ s.mode = .sleeping)) :
      EnvNext s (.raise flag) { s with intcon := setBit s.intcon flag.bitNo }
  | interrupt (periph : Bool) (t : State) (h : interruptTakeable periph s = true)
      (hp : push s.pc (s.setGie false) = some t) : EnvNext s (.interrupt periph) (t.setPc irqVector)
  | wake (periph : Bool) (h : s.mode = .sleeping ∧ irq periph s = true) : EnvNext s (.wake periph) (wakeByInterrupt s)
  | watchdogWake (h : timeoutAdmitted s = true) (hm : s.mode = .sleeping) : EnvNext s .wdtTimeout (wakeByWatchdog s)
  | watchdogReset (h : timeoutAdmitted s = true) (hm : s.mode = .running) : EnvNext s .wdtTimeout (resetWatchdog s)
  | mclrRunning (hm : s.mode = .running) : EnvNext s .mclr (resetNormal s)
  | mclrAsleep (hm : s.mode = .sleeping) : EnvNext s .mclr (resetInSleep s)
  | brownOut : EnvNext s .brownOut (resetNormal s)
  | powerOn : EnvNext s .powerOn (resetPowerOn s)

/-- A move of the environment that answers a next state is one of these. -/
theorem envMove_cases {move : Move} {s t : State} (h : envMove move s = .next t) : EnvNext s move t := by
  have hidle : t = s → EnvNext s move t := by
    rintro rfl
    exact .idle move h
  cases move with
  | raise flag =>
    simp only [envMove, raiseFlag] at h
    split at h <;> cases h
    · exact hidle rfl
    · exact .raise flag ‹_›
  | interrupt periph =>
    simp only [envMove, takeInterrupt] at h
    split at h
    · split at h <;> cases h
      exact .interrupt periph _ ‹_› ‹_›
    · cases h
      exact hidle rfl
  | wake periph =>
    simp only [envMove] at h
    split at h <;> cases h
    · exact .wake periph ‹_›
    · exact hidle rfl
  | wdtTimeout =>
    simp only [envMove] at h
    split at h
    · split at h <;> cases h
      · exact .watchdogReset ‹_› ‹_›
      · exact .watchdogWake ‹_› ‹_›
    · cases h
      exact hidle rfl
  | mclr =>
    simp only [envMove] at h
    split at h <;> cases h
    · exact .mclrRunning ‹_›
    · exact .mclrAsleep ‹_›
  | brownOut => cases h; exact .brownOut
  | powerOn => cases h; exact .powerOn

theorem EnvNext.prog_cfg {s t : State} {move : Move} (h : EnvNext s move t) : t.prog = s.prog ∧ t.cfg = s.cfg := by
  cases h with
  | interrupt periph u _ hp =>
    rw [push_frame hp]
    exact ⟨rfl, rfl⟩
  | idle | raise | wake | watchdogWake | watchdogReset | mclrRunning | mclrAsleep | brownOut | powerOn =>
    exact ⟨rfl, rfl⟩

/-- Settles O13: no kind of step writes program memory or the parameters. -/
theorem programMemoryIsNeverWritten : Obligations.ProgramMemoryIsNeverWritten := by
  intro s t h
  rcases step_cases h with ⟨-, rest, rfl⟩ | ⟨i, rest, -, hx⟩ | ⟨move, rest, -, hm⟩
  · exact ⟨rfl, rfl⟩
  · exact exec_prog_cfg (s := { s with turns := rest }) hx
  · exact (envMove_cases hm).prog_cfg

/-- Settles O59: a move that is no reset writes INTCON, pc and the stack, or TO, PD and the watchdog, and the mode. -/
theorem environmentLeavesTheProgramState : Obligations.EnvironmentLeavesTheProgramState := by
  refine ⟨fun move s t hpower hmclr hbrown hwdt h => ?_, fun s => ⟨rfl, rfl, ?_⟩, fun _ _ _ => step_env_turn⟩
  · cases envMove_cases h with
    | idle | raise => exact ⟨rfl, rfl, rfl, rfl, rfl, rfl, rfl, rfl, rfl⟩
    | interrupt periph u _ hp =>
      rw [push_frame hp]
      exact ⟨rfl, rfl, rfl, rfl, rfl, rfl, rfl, rfl, rfl⟩
    | wake | watchdogWake =>
      simp [wakeByInterrupt, wakeByWatchdog, State.flagZ, State.flagDC, State.flagC]
    | watchdogReset _ hm => simp [hm] at hwdt
    | mclrRunning | mclrAsleep => exact absurd rfl hmclr
    | brownOut => exact absurd rfl hbrown
    | powerOn => exact absurd rfl hpower
  · simp [envMove, raiseFlag, setBit, IrqFlag.bitNo, bitT0IF]

/-! #### A loaded word -/

theorem fetch_loadAtPc (s : State) (word : InstrWord) : fetch (loadAtPc s word) = some word := by
  have hpc : s.pc.toNat < (loadAtPc s word).cfg.progWords.count := by
    have h := s.pc.isLt
    simp only [loadAtPc]
    split
    · assumption
    · exact h
  rw [fetch]
  exact (if_pos hpc).trans (progRead_load_same s.prog s.pc word)

/-- A table word that is an instruction is its low 14 bits decoded (log 20). -/
theorem decode_of_decodeTableWord {nbits w : Nat} {i : Instr} (h : decodeTableWord nbits w = some i) :
    decode (BitVec.ofNat 14 (w % 2 ^ nbits)) = .ok i := by
  simp only [decodeTableWord] at h
  split at h
  · split at h
    · cases h; assumption
    · cases h
  · cases h

/-- Settles O2: the load makes it the running core's turn, at a fetch that finds the word. -/
theorem loadedWordRunsNext : Obligations.LoadedWordRunsNext := by
  intro s n i h
  have hstep : step (s.withFetchWord 16 n) = exec i (s.withFetchWord 16 n) := by
    rw [step_no_turns rfl]
    exact coreTurn_instr rfl (fetch_loadAtPc s _) (decode_of_decodeTableWord h)
  exact ⟨hstep, rfl, rfl, rfl, rfl, rfl⟩

end Sys2Proof.Machine

/-! ### The decoder and the encoder -/

namespace Sys2Proof.Machine

/-! #### The fields of a word as numbers (R72) -/

theorem extract_toNat (w : InstrWord) (start len : Nat) :
    (w.extractLsb' start len).toNat = w.toNat / 2 ^ start % 2 ^ len := by
  rw [BitVec.extractLsb'_toNat, Nat.shiftRight_eq_div_pow]

theorem extract_zero_toNat (w : InstrWord) (len : Nat) : (w.extractLsb' 0 len).toNat = w.toNat % 2 ^ len := by
  rw [extract_toNat, Nat.pow_zero, Nat.div_one]

theorem getLsbD_eq (w : InstrWord) (n : Nat) : w.getLsbD n = decide (w.toNat / 2 ^ n % 2 = 1) :=
  Nat.testBit_eq_decide_div_mod_eq

/-! #### The rows of the opcode map (R75) -/

/-- A field of a word in a row, where the row's mask is 1 throughout, is that of the row's match. -/
theorem extract_of_row {w : InstrWord} {i : Instr} (h : w &&& rowMask i = rowMatch i) (start len : Nat)
    (hm : (rowMask i).extractLsb' start len = BitVec.allOnes len) :
    w.extractLsb' start len = (rowMatch i).extractLsb' start len := by
  rw [← h, BitVec.extractLsb'_and, hm, BitVec.and_allOnes]

theorem getLsbD_of_row {w : InstrWord} {i : Instr} (h : w &&& rowMask i = rowMatch i) (n : Nat)
    (hm : (rowMask i).getLsbD n = true) : w.getLsbD n = (rowMatch i).getLsbD n := by
  rw [← h, BitVec.getLsbD_and, hm, Bool.and_true]

/-- The instruction of `i`'s row whose operands are those at their positions in a word (R72). -/
def operandsFrom (w : InstrWord) : Instr → Instr
  | .addwf _ _ => .addwf (fieldF w) (fieldD w)
  | .andwf _ _ => .andwf (fieldF w) (fieldD w)
  | .clrf _ => .clrf (fieldF w)
  | .clrw => .clrw
  | .comf _ _ => .comf (fieldF w) (fieldD w)
  | .decf _ _ => .decf (fieldF w) (fieldD w)
  | .decfsz _ _ => .decfsz (fieldF w) (fieldD w)
  | .incf _ _ => .incf (fieldF w) (fieldD w)
  | .incfsz _ _ => .incfsz (fieldF w) (fieldD w)
  | .iorwf _ _ => .iorwf (fieldF w) (fieldD w)
  | .movf _ _ => .movf (fieldF w) (fieldD w)
  | .movwf _ => .movwf (fieldF w)
  | .nop => .nop
  | .rlf _ _ => .rlf (fieldF w) (fieldD w)
  | .rrf _ _ => .rrf (fieldF w) (fieldD w)
  | .subwf _ _ => .subwf (fieldF w) (fieldD w)
  | .swapf _ _ => .swapf (fieldF w) (fieldD w)
  | .xorwf _ _ => .xorwf (fieldF w) (fieldD w)
  | .bcf _ _ => .bcf (fieldF w) (fieldB w)
  | .bsf _ _ => .bsf (fieldF w) (fieldB w)
  | .btfsc _ _ => .btfsc (fieldF w) (fieldB w)
  | .btfss _ _ => .btfss (fieldF w) (fieldB w)
  | .addlw _ => .addlw (fieldK8 w)
  | .andlw _ => .andlw (fieldK8 w)
  | .call _ => .call (fieldK11 w)
  | .clrwdt => .clrwdt
  | .goto _ => .goto (fieldK11 w)
  | .iorlw _ => .iorlw (fieldK8 w)
  | .movlw _ => .movlw (fieldK8 w)
  | .retfie => .retfie
  | .retlw _ => .retlw (fieldK8 w)
  | .retn => .retn
  | .sleep => .sleep
  | .sublw _ => .sublw (fieldK8 w)
  | .xorlw _ => .xorlw (fieldK8 w)

/-- Bits 11:8 of a word, when bits 11:9 are given. -/
theorem code_cases_of_top_three {w : InstrWord} {n : Nat} (h : (w.extractLsb' 9 3).toNat = n) :
    (w.extractLsb' 8 4).toNat = 2 * n ∨ (w.extractLsb' 8 4).toNat = 2 * n + 1 := by
  simp only [extract_toNat] at *
  omega

/-- Bits 11:8 of a word, when bits 11:10 are given. -/
theorem code_cases_of_top_two {w : InstrWord} {n : Nat} (h : (w.extractLsb' 10 2).toNat = n) :
    (w.extractLsb' 8 4).toNat = 4 * n ∨ (w.extractLsb' 8 4).toNat = 4 * n + 1 ∨
      (w.extractLsb' 8 4).toNat = 4 * n + 2 ∨ (w.extractLsb' 8 4).toNat = 4 * n + 3 := by
  simp only [extract_toNat] at *
  omega

/-- A word of a row decodes to that row's instruction, with the operands that the word holds. -/
theorem decode_of_row {w : InstrWord} {i : Instr} (h : w &&& rowMask i = rowMatch i) :
    decode w = .ok (operandsFrom w i) := by
  have hgroup : w.extractLsb' 12 2 = (rowMatch i).extractLsb' 12 2 :=
    extract_of_row h 12 2 (by cases i <;> simp [rowMask])
  cases i with
  | addwf | andwf | comf | decf | decfsz | incf | incfsz | iorwf | movf | rlf | rrf | subwf | swapf | xorwf =>
    have hcode := extract_of_row h 8 4 (by simp [rowMask])
    simp [decode, decodeByteOriented, operandsFrom, hgroup, hcode, rowMatch]
  | clrf | clrw | movwf =>
    have hcode := extract_of_row h 8 4 (by simp [rowMask])
    have hbit := getLsbD_of_row h 7 (by simp [rowMask])
    simp only [decode, decodeByteOriented, operandsFrom, hgroup, hcode, hbit, rowMatch]
    rfl
  | bcf | bsf | btfsc | btfss =>
    have hcode := extract_of_row h 10 2 (by simp [rowMask])
    simp [decode, decodeBitOriented, operandsFrom, hgroup, hcode, rowMatch]
  | call | goto =>
    have hbit := getLsbD_of_row h 11 (by simp [rowMask])
    simp only [decode, decodeJump, operandsFrom, hgroup, hbit, rowMatch]
    rfl
  | andlw | iorlw | xorlw =>
    have hcode := extract_of_row h 8 4 (by simp [rowMask])
    simp [decode, decodeLiteral, operandsFrom, hgroup, hcode, rowMatch]
  | addlw | sublw =>
    have hcode := congrArg BitVec.toNat (extract_of_row h 9 3 (by simp [rowMask]))
    obtain hc | hc := code_cases_of_top_three hcode
    all_goals simp [decode, decodeLiteral, operandsFrom, hgroup, hc, rowMatch]
  | movlw | retlw =>
    have hcode := congrArg BitVec.toNat (extract_of_row h 10 2 (by simp [rowMask]))
    obtain hc | hc | hc | hc := code_cases_of_top_two hcode
    all_goals simp [decode, decodeLiteral, operandsFrom, hgroup, hc, rowMatch]
  | nop =>
    have hcode := extract_of_row h 8 4 (by simp [rowMask])
    have hbit := getLsbD_of_row h 7 (by simp [rowMask])
    have hlow := extract_of_row h 0 5 (by simp [rowMask])
    have hfield : (fieldF w).extractLsb' 0 5 = w.extractLsb' 0 5 := by simp [fieldF]
    simp [decode, decodeByteOriented, decodeNoOperand, operandsFrom, hgroup, hcode, hfield, hlow, hbit, rowMatch,
      - BitVec.getLsbD_eq_getElem]
  | clrwdt | retfie | retn | sleep =>
    rw [rowMask, show 0x3FFF#14 = BitVec.allOnes 14 from rfl, BitVec.and_allOnes] at h
    subst h
    rfl

/-! #### What the decoder answers -/

/-- A mask that is 1 down to bit `n` selects an interval of words. -/
theorem and_highMask_eq_iff {n : Nat} (hn : n ≤ 14) (w : InstrWord) {m : InstrWord} (hm : 2 ^ n ∣ m.toNat) :
    w &&& BitVec.ofNat 14 (2 ^ 14 - 2 ^ n) = m ↔ m.toNat ≤ w.toNat ∧ w.toNat < m.toNat + 2 ^ n := by
  have hmask : BitVec.ofNat 14 (2 ^ 14 - 2 ^ n) = BitVec.allOnes 14 <<< n := by
    interval_cases n <;> rfl
  have hand : (w &&& BitVec.allOnes 14 <<< n).toNat = 2 ^ n * (w.toNat / 2 ^ n) := by
    rw [← BitVec.shiftLeft_ushiftRight, BitVec.toNat_shiftLeft, BitVec.toNat_ushiftRight, Nat.shiftRight_eq_div_pow,
      Nat.shiftLeft_eq, mul_comm, Nat.mod_eq_of_lt]
    exact (Nat.mul_div_le _ _).trans_lt w.isLt
  have hpos : 0 < 2 ^ n := Nat.two_pow_pos n
  obtain ⟨k, hk⟩ := hm
  rw [hmask, ← BitVec.toNat_inj, hand, hk, Nat.mul_right_inj hpos.ne', Nat.div_eq_iff hpos, mul_comm k,
    Nat.le_sub_one_iff_lt (by omega)]

/-- But for NOP's, a row's mask is 1 down to some bit, and the row's match is 0 below it. -/
theorem rowMask_high {i : Instr} (hi : i ≠ .nop) :
    ∃ n ≤ 14, rowMask i = BitVec.ofNat 14 (2 ^ 14 - 2 ^ n) ∧ 2 ^ n ∣ (rowMatch i).toNat := by
  cases i with
  | nop => exact absurd rfl hi
  | clrwdt | retfie | retn | sleep => exact ⟨0, by decide, rfl, by simp [rowMatch]⟩
  | clrf | clrw | movwf => exact ⟨7, by decide, rfl, by simp [rowMatch]⟩
  | addwf | andwf | comf | decf | decfsz | incf | incfsz | iorwf | movf | rlf | rrf | subwf | swapf | xorwf
  | andlw | iorlw | xorlw => exact ⟨8, by decide, rfl, by simp [rowMatch]⟩
  | addlw | sublw => exact ⟨9, by decide, rfl, by simp [rowMatch]⟩
  | bcf | bsf | btfsc | btfss | movlw | retlw => exact ⟨10, by decide, rfl, by simp [rowMatch]⟩
  | call | goto => exact ⟨11, by decide, rfl, by simp [rowMatch]⟩

/-- The words of a row other than NOP's are an interval, from the row's match on (R75). -/
theorem row_iff_interval {i : Instr} (hi : i ≠ .nop) (w : InstrWord) :
    w &&& rowMask i = rowMatch i ↔
      (rowMatch i).toNat ≤ w.toNat ∧ w.toNat < (rowMatch i).toNat + (2 ^ 14 - (rowMask i).toNat) := by
  obtain ⟨n, hn, hmask, hm⟩ := rowMask_high hi
  have hle : 2 ^ n ≤ 2 ^ 14 := Nat.pow_le_pow_right (by decide) hn
  have hpos : 0 < 2 ^ n := Nat.two_pow_pos n
  rw [hmask, and_highMask_eq_iff hn w hm, BitVec.toNat_ofNat, Nat.mod_eq_of_lt (by omega), Nat.sub_sub_self hle]

/-- NOP's words: the four multiples of 32 below 128 (R74). -/
theorem row_nop_iff (w : InstrWord) :
    w &&& rowMask .nop = rowMatch .nop ↔ w.toNat < 128 ∧ w.toNat % 32 = 0 := by
  have hmask : rowMask .nop = BitVec.ofNat 14 (2 ^ 14 - 2 ^ 7) ||| 0x1F#14 := rfl
  have hlow : w &&& 0x1F#14 = 0#14 ↔ w.toNat % 32 = 0 := by
    rw [← BitVec.toNat_inj, BitVec.toNat_and]
    exact iff_of_eq (congrArg (· = 0) (Nat.and_two_pow_sub_one_eq_mod w.toNat 5))
  rw [hmask, BitVec.and_or_distrib_left, rowMatch, BitVec.or_eq_zero_iff, hlow,
    and_highMask_eq_iff (n := 7) (by decide) w (by simp)]
  simp

/-- What a decoder may answer for a word: an instruction of the word's row with the word's operands, or why the word is
in none (R78, R79). -/
def ReadsAs (w : InstrWord) : Decoded → Prop
  | .ok i => w &&& rowMask i = rowMatch i ∧ operandsFrom w i = i
  | .error e => unlistedByR78 w.toNat ∧ (e = .optionTris ↔ isOptionOrTris w = true)

theorem readsAs_ok {w : InstrWord} {i : Instr} (hi : i ≠ .nop) (hop : operandsFrom w i = i)
    (hrow : (rowMatch i).toNat ≤ w.toNat ∧ w.toNat < (rowMatch i).toNat + (2 ^ 14 - (rowMask i).toNat)) :
    ReadsAs w (.ok i) :=
  ⟨(row_iff_interval hi w).2 hrow, hop⟩

theorem isOptionOrTris_iff (w : InstrWord) :
    isOptionOrTris w = true ↔ w = 0x0062#14 ∨ w = 0x0065#14 ∨ w = 0x0066#14 ∨ w = 0x0067#14 := by
  simp [isOptionOrTris]

theorem isOptionOrTris_iff_toNat (w : InstrWord) :
    isOptionOrTris w = true ↔ w.toNat = 0x62 ∨ w.toNat = 0x65 ∨ w.toNat = 0x66 ∨ w.toNat = 0x67 := by
  simp only [isOptionOrTris_iff, ← BitVec.toNat_inj, BitVec.reduceToNat]

/-- The words below 128, but for NOP's, by their low seven bits. -/
theorem decodeNoOperand_readsAs {w : InstrWord} (hw : w.toNat < 128) : ReadsAs w (decodeNoOperand (fieldF w)) := by
  have hfield (low : BitVec 7) : fieldF w = low ↔ w.toNat = low.toNat := by
    rw [← BitVec.toNat_inj, fieldF, extract_zero_toNat]
    omega
  have hnop : (fieldF w).extractLsb' 0 5 = 0b00000#5 ↔ w.toNat % 32 = 0 := by
    rw [← BitVec.toNat_inj, fieldF, BitVec.extractLsb'_toNat, extract_toNat]
    simp
  simp only [decodeNoOperand, hfield, hnop, BitVec.reduceToNat]
  split_ifs with hzero _ _ _ _ htris
  · exact ⟨(row_nop_iff w).2 ⟨hw, hzero⟩, rfl⟩
  any_goals exact readsAs_ok nofun rfl (by simp only [rowMatch, rowMask, BitVec.reduceToNat]; omega)
  · exact ⟨by simp only [unlistedByR78]; omega, by simp [isOptionOrTris_iff_toNat, htris]⟩
  · exact ⟨by simp only [unlistedByR78]; omega, by simp [isOptionOrTris_iff_toNat, htris]⟩

/-- The words of the byte-oriented group, by the code in bits 11:8. -/
theorem decodeByteOriented_readsAs {w : InstrWord} (hw : w.toNat / 4096 = 0) : ReadsAs w (decodeByteOriented w) := by
  have hlt : w.toNat / 2 ^ 8 % 2 ^ 4 < 16 := Nat.mod_lt _ (by decide)
  rw [decodeByteOriented, extract_toNat, getLsbD_eq]
  generalize hc : w.toNat / 2 ^ 8 % 2 ^ 4 = c at hlt
  interval_cases c
  · by_cases hbit : w.toNat / 2 ^ 7 % 2 = 1
    · simp only [hbit, decide_true, if_true]
      exact readsAs_ok nofun rfl (by simp only [rowMatch, rowMask, BitVec.reduceToNat]; omega)
    · simp only [hbit, decide_false]
      exact decodeNoOperand_readsAs (by omega)
  · by_cases hbit : w.toNat / 2 ^ 7 % 2 = 1
    all_goals
      simp only [hbit, decide_true, decide_false, if_true]
      exact readsAs_ok nofun rfl (by simp only [rowMatch, rowMask, BitVec.reduceToNat]; omega)
  all_goals exact readsAs_ok nofun rfl (by simp only [rowMatch, rowMask, BitVec.reduceToNat]; omega)

/-- The words of the bit-oriented group, by bits 11:10. -/
theorem decodeBitOriented_readsAs {w : InstrWord} (hw : w.toNat / 4096 = 1) : ReadsAs w (decodeBitOriented w) := by
  have hlt : w.toNat / 2 ^ 10 % 2 ^ 2 < 4 := Nat.mod_lt _ (by decide)
  rw [decodeBitOriented, extract_toNat]
  generalize hc : w.toNat / 2 ^ 10 % 2 ^ 2 = c at hlt
  interval_cases c
  all_goals exact readsAs_ok nofun rfl (by simp only [rowMatch, rowMask, BitVec.reduceToNat]; omega)

/-- CALL and GOTO, by bit 11. -/
theorem decodeJump_readsAs {w : InstrWord} (hw : w.toNat / 4096 = 2) : ReadsAs w (decodeJump w) := by
  rw [decodeJump, getLsbD_eq]
  by_cases hbit : w.toNat / 2 ^ 11 % 2 = 1
  all_goals
    simp only [hbit, decide_true, decide_false, if_true]
    exact readsAs_ok nofun rfl (by simp only [rowMatch, rowMask, BitVec.reduceToNat]; omega)

/-- The words of the literal group, by the code in bits 11:8; 0xB is no instruction's. -/
theorem decodeLiteral_readsAs {w : InstrWord} (hw : w.toNat / 4096 = 3) : ReadsAs w (decodeLiteral w) := by
  have hlt : w.toNat / 2 ^ 8 % 2 ^ 4 < 16 := Nat.mod_lt _ (by decide)
  rw [decodeLiteral, extract_toNat]
  generalize hc : w.toNat / 2 ^ 8 % 2 ^ 4 = c at hlt
  interval_cases c
  any_goals exact readsAs_ok nofun rfl (by simp only [rowMatch, rowMask, BitVec.reduceToNat]; omega)
  refine ⟨by simp only [unlistedByR78]; omega, ?_⟩
  simp only [isOptionOrTris_iff_toNat, reduceCtorEq, false_iff]
  omega

/-- Every answer of the decoder is right for the word. -/
theorem decode_readsAs (w : InstrWord) : ReadsAs w (decode w) := by
  have hlt := w.isLt
  rw [decode, extract_toNat, Nat.mod_eq_of_lt (by omega)]
  generalize hc : w.toNat / 2 ^ 12 = c
  have hle : c ≤ 3 := by omega
  interval_cases c
  · exact decodeByteOriented_readsAs hc
  · exact decodeBitOriented_readsAs hc
  · exact decodeJump_readsAs hc
  · exact decodeLiteral_readsAs hc

theorem row_of_decode {w : InstrWord} {i : Instr} (h : decode w = .ok i) :
    w &&& rowMask i = rowMatch i ∧ operandsFrom w i = i := by
  have hread := decode_readsAs w
  rwa [h] at hread

theorem decode_error {w : InstrWord} {e : DecodeReject} (h : decode w = .error e) :
    unlistedByR78 w.toNat ∧ (e = .optionTris ↔ isOptionOrTris w = true) := by
  have hread := decode_readsAs w
  rwa [h] at hread

/-- No word of a row is in the ranges of R78. -/
theorem not_unlisted_of_row {w : InstrWord} {i : Instr} (h : w &&& rowMask i = rowMatch i) :
    ¬ unlistedByR78 w.toNat := by
  simp only [unlistedByR78]
  cases i with
  | nop =>
    rw [row_nop_iff] at h
    omega
  | _ =>
    rw [row_iff_interval (by simp)] at h
    simp only [rowMatch, rowMask, BitVec.reduceToNat] at h
    omega

theorem decode_error_iff (w : InstrWord) : (∃ e, decode w = .error e) ↔ unlistedByR78 w.toNat := by
  refine ⟨fun ⟨e, h⟩ => (decode_error h).1, fun h => ?_⟩
  cases hd : decode w with
  | error e => exact ⟨e, rfl⟩
  | ok i => exact absurd h (not_unlisted_of_row (row_of_decode hd).1)

@[simp] theorem rowMask_operandsFrom (w : InstrWord) (i : Instr) : rowMask (operandsFrom w i) = rowMask i := by
  cases i <;> rfl

@[simp] theorem rowMatch_operandsFrom (w : InstrWord) (i : Instr) : rowMatch (operandsFrom w i) = rowMatch i := by
  cases i <;> rfl

theorem encode_in_row (i : Instr) : encode i &&& rowMask i = rowMatch i := by
  cases i with
  | clrw | nop | clrwdt | retfie | retn | sleep => rfl
  | addwf | andwf | comf | decf | decfsz | incf | incfsz | iorwf | movf | rlf | rrf | subwf | swapf | xorwf =>
    exact Laws.EncodedRow.masked₂ _ 0b111111#6 _ _
  | clrf | movwf => exact Laws.EncodedRow.masked _ 0b1111111#7 _
  | bcf | bsf | btfsc | btfss => exact Laws.EncodedRow.masked₂ _ 0b1111#4 _ _
  | call | goto => exact Laws.EncodedRow.masked _ 0b111#3 _
  | andlw | iorlw | xorlw => exact Laws.EncodedRow.masked _ 0b111111#6 _
  | addlw | sublw => exact Laws.EncodedRow.masked _ 0b111110#6 _
  | movlw | retlw => exact Laws.EncodedRow.masked _ 0b111100#6 _

theorem rowMatch_and_rowMask (i : Instr) : rowMatch i &&& rowMask i = rowMatch i := by
  rw [← encode_in_row i, BitVec.and_assoc, BitVec.and_self]

/-- A row's match gives its mask. -/
theorem rowMask_of_rowMatch {i j : Instr} (h : rowMatch i = rowMatch j) : rowMask i = rowMask j := by
  have hi := decode_of_row (rowMatch_and_rowMask i)
  have hj := decode_of_row (rowMatch_and_rowMask j)
  rw [h, hj, Except.ok.injEq] at hi
  rw [← rowMask_operandsFrom (rowMatch j) j, hi, rowMask_operandsFrom]

/-- Settles O6: a row decodes to its own instruction, so a word of two rows is decoded once. -/
theorem opcodeMapIsTheDecoder : Obligations.OpcodeMapIsTheDecoder := by
  have hrow (word : InstrWord) (i : Instr) :
      word &&& rowMask i = rowMatch i ↔ ∃ j, decode word = .ok j ∧ rowMatch j = rowMatch i := by
    constructor
    · exact fun h => ⟨_, decode_of_row h, rowMatch_operandsFrom word i⟩
    · rintro ⟨j, hd, hj⟩
      rw [← rowMask_of_rowMatch hj, ← hj]
      exact (row_of_decode hd).1
  refine ⟨hrow, fun word i j hi hj => ?_⟩
  have h := (decode_of_row hi).symm.trans (decode_of_row hj)
  rw [Except.ok.injEq] at h
  rw [← rowMatch_operandsFrom word i, h, rowMatch_operandsFrom]

/-! #### The encoder -/

theorem append_eq_or_ofNat {m n : Nat} (x : BitVec m) (y : BitVec n) :
    x ++ y = (x ++ 0#n) ||| BitVec.ofNat (m + n) y.toNat := by
  have hy : BitVec.ofNat (m + n) y.toNat = 0#m ++ y := by
    apply BitVec.eq_of_toNat_eq
    rw [toNat_append_eq_mul_add, BitVec.toNat_ofNat, Nat.mod_eq_of_lt]
    · simp
    · exact y.isLt.trans_le (Nat.pow_le_pow_right (by decide) (by omega))
  rw [hy, BitVec.or_append, BitVec.or_zero, BitVec.zero_or]

/-- `oo oooo dfff ffff` is the opcode with `d` at bit 7 and `f` at bit 0 (R72). -/
theorem byteWord_eq (op : BitVec 6) (f : FileNo) (d : Dest) :
    op ++ d.toBit ++ f = (op ++ 0#8) ||| BitVec.ofNat 14 ((if d = .f then 2 ^ 7 else 0) + f.toNat) := by
  have hfields : (d.toBit ++ f).toNat = (if d = .f then 2 ^ 7 else 0) + f.toNat := by
    rw [toNat_append_eq_mul_add]
    cases d <;> rfl
  rw [← hfields, BitVec.append_assoc]
  exact append_eq_or_ofNat op (d.toBit ++ f)

/-- `oo oobb bfff ffff` is the opcode with `b` at bit 7 and `f` at bit 0 (R72). -/
theorem bitWord_eq (op : BitVec 4) (f : FileNo) {b : Nat} (hb : bitNoOk b = true) :
    op ++ bitField b ++ f = (op ++ 0#10) ||| BitVec.ofNat 14 (b * 2 ^ 7 + f.toNat) := by
  have hle : b ≤ 7 := of_decide_eq_true hb
  have hfields : (bitField b ++ f).toNat = b * 2 ^ 7 + f.toNat := by
    rw [toNat_append_eq_mul_add, bitField, BitVec.toNat_ofNat, Nat.mod_eq_of_lt (by omega)]
  rw [← hfields, BitVec.append_assoc]
  exact append_eq_or_ofNat op (bitField b ++ f)

/-- The encoded word is the row's match with the operand fields at their positions (R77). -/
theorem encode_eq_or {i : Instr} (hi : i.wellFormed = true) : encode i = rowMatch i ||| operandBits i := by
  cases i with
  | clrw | nop | clrwdt | retfie | retn | sleep => rfl
  | addwf f d | andwf f d | comf f d | decf f d | decfsz f d | incf f d | incfsz f d | iorwf f d | movf f d | rlf f d
  | rrf f d | subwf f d | swapf f d | xorwf f d => exact byteWord_eq _ f d
  | bcf f b | bsf f b | btfsc f b | btfss f b => exact bitWord_eq _ f hi
  | clrf x | movwf x | call x | goto x | addlw x | andlw x | iorlw x | movlw x | retlw x | sublw x | xorlw x =>
    exact append_eq_or_ofNat _ x

/-- The encoder leaves the don't-care bits 0 (R77). -/
theorem encode_and_dontCareBits (i : Instr) : encode i &&& dontCareBits i = 0#14 := by
  cases i with
  | clrw | nop => rfl
  | movlw | retlw => exact Laws.EncodedRow.masked _ 0b000011#6 _
  | addlw | sublw => exact Laws.EncodedRow.masked _ 0b000001#6 _
  | _ => exact BitVec.and_zero

theorem fieldF_append (op : BitVec 7) (f : FileNo) : fieldF (op ++ f) = f :=
  BitVec.extractLsb'_append_eq_right

theorem fieldK8_append (op : BitVec 6) (k : Byte) : fieldK8 (op ++ k) = k :=
  BitVec.extractLsb'_append_eq_right

theorem fieldK11_append (op : BitVec 3) (k : BitVec 11) : fieldK11 (op ++ k) = k :=
  BitVec.extractLsb'_append_eq_right

theorem byteWord_fields (op : BitVec 6) (f : FileNo) (d : Dest) :
    fieldF (op ++ d.toBit ++ f) = f ∧ fieldD (op ++ d.toBit ++ f) = d := by
  refine ⟨fieldF_append (op ++ d.toBit) f, ?_⟩
  rw [fieldD, BitVec.getLsbD_append, if_neg (by decide), BitVec.getLsbD_append, if_pos (by decide)]
  cases d <;> rfl

theorem bitWord_fields (op : BitVec 4) (f : FileNo) {b : Nat} (hb : bitNoOk b = true) :
    fieldF (op ++ bitField b ++ f) = f ∧ fieldB (op ++ bitField b ++ f) = b := by
  have hle : b ≤ 7 := of_decide_eq_true hb
  refine ⟨fieldF_append (op ++ bitField b) f, ?_⟩
  rw [fieldB, BitVec.extractLsb'_append_eq_of_le (by decide), BitVec.extractLsb'_append_eq_right, bitField,
    BitVec.toNat_ofNat, Nat.mod_eq_of_lt (by omega)]

/-- A well-formed instruction's operands are those that its word holds. -/
theorem operandsFrom_encode {i : Instr} (hi : i.wellFormed = true) : operandsFrom (encode i) i = i := by
  cases i with
  | clrw | nop | clrwdt | retfie | retn | sleep => rfl
  | addwf f d | andwf f d | comf f d | decf f d | decfsz f d | incf f d | incfsz f d | iorwf f d | movf f d | rlf f d
  | rrf f d | subwf f d | swapf f d | xorwf f d => simp only [operandsFrom, encode, byteWord_fields]
  | bcf f b | bsf f b | btfsc f b | btfss f b => simp only [operandsFrom, encode, bitWord_fields _ _ hi]
  | clrf x | movwf x => simp only [operandsFrom, encode, fieldF_append]
  | call x | goto x => simp only [operandsFrom, encode, fieldK11_append]
  | addlw x | andlw x | iorlw x | movlw x | retlw x | sublw x | xorlw x =>
    simp only [operandsFrom, encode, fieldK8_append]

theorem decode_encode {i : Instr} (hi : i.wellFormed = true) : decode (encode i) = .ok i := by
  rw [decode_of_row (encode_in_row i), operandsFrom_encode hi]

/-- Settles O7: the encoded word is in the instruction's row, where decoding reads its operands back. -/
theorem decodeOfEncodeIsTheInstruction : Obligations.DecodeOfEncodeIsTheInstruction :=
  fun i hi => ⟨decode_encode hi, encode_eq_or hi, encode_and_dontCareBits i⟩

/-! #### The don't-care bits -/

theorem and_lowMask {n : Nat} (hn : n ≤ 14) (w : InstrWord) :
    w &&& BitVec.ofNat 14 (2 ^ n - 1) = BitVec.ofNat 14 (w.toNat % 2 ^ n) := by
  have hle : 2 ^ n ≤ 2 ^ 14 := Nat.pow_le_pow_right (by decide) hn
  have hpos : 0 < 2 ^ n := Nat.two_pow_pos n
  have hlt : w.toNat % 2 ^ n < 2 ^ n := Nat.mod_lt _ hpos
  apply BitVec.eq_of_toNat_eq
  rw [BitVec.toNat_and, BitVec.toNat_ofNat, BitVec.toNat_ofNat, Nat.mod_eq_of_lt (by omega),
    Nat.mod_eq_of_lt (by omega), Nat.and_two_pow_sub_one_eq_mod]

theorem fieldB_eq (w : InstrWord) : fieldB w = w.toNat / 128 % 8 := extract_toNat w 7 3

theorem fieldD_eq_f_iff (w : InstrWord) : fieldD w = .f ↔ w.toNat / 128 % 2 = 1 := by
  rw [fieldD, getLsbD_eq, Dest.ofBit]
  simp

/-- The operands of a word in a row are its low bits, those that the row's mask and don't-care bits leave. -/
theorem operandBits_operandsFrom (w : InstrWord) (i : Instr) :
    ∃ n ≤ 14, ~~~dontCareBits i = rowMask i ||| BitVec.ofNat 14 (2 ^ n - 1) ∧
      operandBits (operandsFrom w i) = BitVec.ofNat 14 (w.toNat % 2 ^ n) := by
  cases i with
  | clrw | nop | clrwdt | retfie | retn | sleep =>
    exact ⟨0, by decide, rfl, by simp [operandsFrom, operandBits, Nat.mod_one]⟩
  | addwf | andwf | comf | decf | decfsz | incf | incfsz | iorwf | movf | rlf | rrf | subwf | swapf | xorwf =>
    refine ⟨8, by decide, by simp only [rowMask, dontCareBits]; decide, congrArg (BitVec.ofNat 14) ?_⟩
    rw [fieldF, extract_zero_toNat]
    simp only [fieldD_eq_f_iff]
    split <;> omega
  | bcf | bsf | btfsc | btfss =>
    refine ⟨10, by decide, by simp only [rowMask, dontCareBits]; decide, congrArg (BitVec.ofNat 14) ?_⟩
    rw [fieldF, extract_zero_toNat, fieldB_eq]
    omega
  | clrf | movwf =>
    refine ⟨7, by decide, ?_, congrArg (BitVec.ofNat 14) (extract_zero_toNat w 7)⟩
    simp only [rowMask, dontCareBits]; decide
  | call | goto =>
    refine ⟨11, by decide, ?_, congrArg (BitVec.ofNat 14) (extract_zero_toNat w 11)⟩
    simp only [rowMask, dontCareBits]; decide
  | addlw | andlw | iorlw | movlw | retlw | sublw | xorlw =>
    refine ⟨8, by decide, ?_, congrArg (BitVec.ofNat 14) (extract_zero_toNat w 8)⟩
    simp only [rowMask, dontCareBits]; decide

theorem wellFormed_operandsFrom (w : InstrWord) (i : Instr) : (operandsFrom w i).wellFormed = true := by
  cases i with
  | bcf | bsf | btfsc | btfss => exact decide_eq_true (Nat.le_of_lt_succ (w.extractLsb' 7 3).isLt)
  | _ => rfl

/-- The instruction of a row that a word gives encodes to the word with its don't-care bits cleared (R74). -/
theorem encode_operandsFrom {w : InstrWord} {i : Instr} (h : w &&& rowMask i = rowMatch i) :
    encode (operandsFrom w i) = w &&& ~~~dontCareBits i := by
  obtain ⟨n, hn, hmask, hop⟩ := operandBits_operandsFrom w i
  rw [encode_eq_or (wellFormed_operandsFrom w i), rowMatch_operandsFrom, hop, hmask, BitVec.and_or_distrib_left, h,
    and_lowMask hn]

/-- No opcode bit is a don't-care bit. -/
theorem not_dontCareBits_and_rowMask (i : Instr) : ~~~dontCareBits i &&& rowMask i = rowMask i := by
  obtain ⟨n, -, hmask, -⟩ := operandBits_operandsFrom 0#14 i
  rw [hmask]
  ext k
  rw [BitVec.getElem_and, BitVec.getElem_or, Bool.and_eq_right_iff_imp, Bool.or_eq_true]
  exact Or.inl

/-- The words of an instruction are those that its encoding is, the don't-care bits cleared (R74, R77). -/
theorem decode_eq_ok_iff {w : InstrWord} {i : Instr} :
    decode w = .ok i ↔ i.wellFormed = true ∧ encode i = w &&& ~~~dontCareBits i := by
  constructor
  · intro h
    obtain ⟨hrow, hop⟩ := row_of_decode h
    have hwf := wellFormed_operandsFrom w i
    have henc := encode_operandsFrom hrow
    rw [hop] at hwf henc
    exact ⟨hwf, henc⟩
  · rintro ⟨hwf, henc⟩
    have hrow : w &&& rowMask i = rowMatch i := by
      rw [← not_dontCareBits_and_rowMask, ← BitVec.and_assoc, ← henc, encode_in_row]
    rw [← decode_encode hwf, henc, ← encode_operandsFrom hrow, decode_encode (wellFormed_operandsFrom w i),
      decode_of_row hrow]

/-- Settles O8: filling the don't-care bits leaves the word that they are cleared from. -/
theorem dontCareBitsAreIgnored : Obligations.DontCareBitsAreIgnored := by
  intro word i h
  obtain ⟨hwf, henc⟩ := decode_eq_ok_iff.1 h
  refine ⟨hwf, henc, fun x => decode_eq_ok_iff.2 ⟨hwf, henc.trans ?_⟩⟩
  simp only [BitVec.and_or_distrib_right, BitVec.and_assoc, BitVec.and_self, BitVec.and_not_self,
    BitVec.ofNat_eq_ofNat, BitVec.and_zero, BitVec.or_zero]

/-! #### Words that are no instruction -/

/-- The number of a word that decodes to an instruction (R78). -/
def isListed (n : Nat) : Bool := (decode (BitVec.ofNat 14 n)).isOk

theorem isListed_iff {n : Nat} (hn : n < 16384) : isListed n = true ↔ ¬ unlistedByR78 n := by
  have hnum : (BitVec.ofNat 14 n).toNat = n := Nat.mod_eq_of_lt hn
  have herr := decode_error_iff (BitVec.ofNat 14 n)
  rw [hnum] at herr
  rw [← herr, isListed]
  cases decode (BitVec.ofNat 14 n) <;> simp [Except.isOk, Except.toBool]

theorem countP_interval_of_forall {p : Nat → Bool} {start len : Nat}
    (h : ∀ n, start ≤ n → n < start + len → p n = true) :
    (List.range' start len).countP p = len := by
  rw [List.countP_eq_length.2, List.length_range']
  intro n hn
  obtain ⟨hlo, hhi⟩ := List.mem_range'_1.1 hn
  exact h n hlo hhi

/-- R78's count: 8 words below 0x80, all from there to 0x3B00, none to 0x3C00, and all above. -/
theorem countP_isListed : (List.range 16384).countP isListed = 16008 := by
  have hlow : (List.range' 0 0x80).countP isListed = 8 := by decide
  have hmid : (List.range' 0x80 0x3A80).countP isListed = 0x3A80 :=
    countP_interval_of_forall fun n _ _ => (isListed_iff (by omega)).2 (by simp only [unlistedByR78]; omega)
  have hgap : (List.range' 0x3B00 0x100).countP isListed = 0 :=
    List.countP_eq_zero.2 fun n hn => by
      obtain ⟨hlo, hhi⟩ := List.mem_range'_1.1 hn
      rw [isListed_iff (by omega), not_not]
      simp only [unlistedByR78]
      omega
  have hhigh : (List.range' 0x3C00 0x400).countP isListed = 0x400 :=
    countP_interval_of_forall fun n _ _ => (isListed_iff (by omega)).2 (by simp only [unlistedByR78]; omega)
  have hsplit : List.range 16384 =
      List.range' 0 0x80 ++ List.range' 0x80 0x3A80 ++ List.range' 0x3B00 0x100 ++ List.range' 0x3C00 0x400 := by
    rw [List.range'_append_1 (s := 0) (m := 0x80), List.range'_append_1 (s := 0) (m := 0x80 + 0x3A80),
      List.range'_append_1 (s := 0) (m := 0x80 + 0x3A80 + 0x100), List.range_eq_range']
  rw [hsplit, List.countP_append, List.countP_append, List.countP_append, hlow, hmid, hgap, hhigh]

theorem fetch_eq_some {s : State} {word : InstrWord} (hpc : s.pc.toNat < s.cfg.progWords.count)
    (hw : progRead s.prog s.pc = some word) : fetch s = some word := by rw [fetch, if_pos hpc, hw]

/-- At the core's turn an unlisted word is refused, under OPTION's and TRIS's own name or as unlisted (R78, R79). -/
theorem step_unlisted {s : State} {word : InstrWord} (hm : s.mode = .running) (hc : s.coreNext)
    (hpc : s.pc.toNat < s.cfg.progWords.count) (hw : progRead s.prog s.pc = some word)
    (hu : unlistedByR78 word.toNat) :
    step s = .refused (if isOptionOrTris word then .optionTris s.pc word else .unlistedWord s.pc word) := by
  obtain ⟨e, hd⟩ := (decode_error_iff word).2 hu
  rw [step_reject hc hm (fetch_eq_some hpc hw) hd]
  have he := (decode_error hd).2
  cases e with
  | unlistedWord => rw [if_neg (by simpa using he)]; rfl
  | optionTris => rw [if_pos (he.1 rfl)]; rfl

/-- Settles O4: the decoder rejects the words of no row, and those are the ranges of R78. -/
theorem unlistedWordsAreRefused : Obligations.UnlistedWordsAreRefused :=
  ⟨decode_error_iff, List.countP_eq_length_filter.symm.trans countP_isListed,
    fun _ _ hm hc hpc hw hu => step_unlisted hm hc hpc hw hu⟩

/-- Settles O5: the four words are in the ranges of R78, and the decoder names their reject by R79. -/
theorem optionAndTrisAreRefused : Obligations.OptionAndTrisAreRefused := by
  refine ⟨fun s word hm hc hpc hw hword => ?_, fun word hd => ?_⟩
  · have hopt := (isOptionOrTris_iff word).2 hword
    have hu : unlistedByR78 word.toNat := by
      rw [isOptionOrTris_iff_toNat] at hopt
      simp only [unlistedByR78]
      omega
    rw [step_unlisted hm hc hpc hw hu, if_pos hopt]
  · exact (isOptionOrTris_iff word).1 ((decode_error hd).2.1 rfl)

/-! #### The step and the sample words -/

/-- Settles O1: with no turns scheduled or the core's turn next, the step is the core's turn. -/
theorem stepRunsTheDecodedInstruction : Obligations.StepRunsTheDecodedInstruction := by
  intro s word i rest hm hpc hw hd
  have hfetch := fetch_eq_some hpc hw
  refine ⟨fun h => ?_, fun h => ?_⟩
  · rw [step_no_turns h, coreTurn_instr hm hfetch hd]
  · rw [step_core_turn h]
    exact coreTurn_instr (s := { s with turns := rest }) hm hfetch hd

/-- Settles O9: the decoder evaluated at the eighteen words. -/
theorem sampleWordsDecode : Obligations.SampleWordsDecode := by
  unfold Obligations.SampleWordsDecode
  decide

end Sys2Proof.Machine

/-! ### Byte-oriented operations -/

namespace Sys2Proof.Machine

/-! #### The words of the rows (R75) -/

theorem byteRow_of_encode {op : BitVec 6} {i : FileNo → Dest → Instr}
    (h : ∀ f d, (i f d).wellFormed = true ∧ encode (i f d) = op ++ d.toBit ++ f) : ByteRow op i := by
  have hdec : ∀ f d, decode (op ++ d.toBit ++ f) = .ok (i f d) := by
    intro f d
    obtain ⟨hwf, henc⟩ := h f d
    rw [← henc, decode_encode hwf]
  exact fun f => ⟨hdec f .w, hdec f .f⟩

theorem fileRow_of_encode {op : BitVec 7} {i : FileNo → Instr}
    (h : ∀ f, (i f).wellFormed = true ∧ encode (i f) = op ++ f) : FileRow op i := by
  intro f
  obtain ⟨hwf, henc⟩ := h f
  rw [← henc, decode_encode hwf]

/-- The seven low bits of CLRW's word are don't-care bits (R105). -/
theorem decode_clrw_word (x : BitVec 7) : decode (0b0000010#7 ++ x) = .ok .clrw :=
  decode_of_row (i := .clrw) (Laws.EncodedRow.masked 0b0000010#7 0b1111111#7 x)

/-- Bits 6:5 of NOP's word are don't-care bits (R114). -/
theorem decode_nop_word : ∀ x : BitVec 2, decode (0b0000000#7 ++ x ++ 0b00000#5) = .ok .nop := by decide

/-! #### Results in natural numbers -/

theorem add8_eq_ofNat (a b : Byte) :
    add8 a b = ⟨BitVec.ofNat 8 (a.toNat + b.toNat), decide (a.toNat + b.toNat > 255),
      decide (a.toNat % 16 + b.toNat % 16 > 15)⟩ := by
  change add8 a b = ⟨_, decide (255 < a.toNat + b.toNat), decide (15 < a.toNat % 16 + b.toNat % 16)⟩
  rw [← add8_c, ← add8_dc]
  rfl

/-- `a - b` with 256 added first, so that the natural number does not truncate. -/
theorem sub_eq_ofNat (a b : Byte) : a - b = BitVec.ofNat 8 (a.toNat + 256 - b.toNat) := by
  apply BitVec.eq_of_toNat_eq
  rw [BitVec.toNat_sub, BitVec.toNat_ofNat]
  omega

theorem sub8_eq_ofNat (a b : Byte) :
    sub8 a b = ⟨BitVec.ofNat 8 (a.toNat + 256 - b.toNat), decide (b.toNat ≤ a.toNat),
      decide (b.toNat % 16 ≤ a.toNat % 16)⟩ := by
  rw [← sub8_c, ← sub8_dc, ← sub_eq_ofNat, ← sub8_val]

theorem complement_eq_ofNat (a : Byte) : ~~~a = BitVec.ofNat 8 (255 - a.toNat) := by
  rw [← toNat_not_byte, BitVec.ofNat_toNat, BitVec.setWidth_eq]

theorem pred_eq_ofNat (a : Byte) : a - 1 = BitVec.ofNat 8 (a.toNat + 255) := sub_eq_ofNat a 1

theorem succ_eq_ofNat (a : Byte) : a + 1 = BitVec.ofNat 8 (a.toNat + 1) := BitVec.eq_of_toNat_eq (by simp)

/-- RLF doubles the register, and C enters at bit 0 (R115). -/
theorem rotateLeft_eq_ofNat (a : Byte) (carry : Bool) :
    rotateLeft a carry = ⟨BitVec.ofNat 8 (a.toNat * 2 + carry.toNat), a.getLsbD 7, false⟩ := by
  have hval : a.extractLsb' 0 7 ++ BitVec.ofBool carry = BitVec.ofNat 8 (a.toNat * 2 + carry.toNat) := by
    apply BitVec.eq_of_toNat_eq
    have hc := carry.toNat_lt
    rw [toNat_append_eq_mul_add, BitVec.extractLsb'_toNat, Nat.shiftRight_zero, BitVec.toNat_ofBool, BitVec.toNat_ofNat]
    omega
  rw [← hval]
  rfl

/-- RRF halves the register, and C enters at bit 7 (R116). -/
theorem rotateRight_eq_ofNat (a : Byte) (carry : Bool) :
    rotateRight a carry = ⟨BitVec.ofNat 8 (a.toNat / 2 + carry.toNat * 128), a.getLsbD 0, false⟩ := by
  have hval : BitVec.ofBool carry ++ a.extractLsb' 1 7 = BitVec.ofNat 8 (a.toNat / 2 + carry.toNat * 128) := by
    apply BitVec.eq_of_toNat_eq
    have hc := carry.toNat_lt
    rw [toNat_append_eq_mul_add, BitVec.extractLsb'_toNat, Nat.shiftRight_eq_div_pow, BitVec.toNat_ofBool,
      BitVec.toNat_ofNat]
    omega
  rw [← hval]
  rfl

/-- SWAPF puts the low nibble above the high one (R118). -/
theorem swapNibbles_eq_ofNat (a : Byte) :
    swapNibbles a = BitVec.ofNat 8 (a.toNat % 16 * 16 + a.toNat / 16) := by
  have hlt : a.toNat % 16 * 16 + a.toNat / 16 < 2 ^ 8 := by omega
  apply BitVec.eq_of_toNat_eq
  rw [swapNibbles, toNat_append_eq_mul_add, BitVec.extractLsb'_toNat, BitVec.extractLsb'_toNat, Nat.shiftRight_zero,
    Nat.shiftRight_eq_div_pow, BitVec.toNat_ofNat, Nat.mod_eq_of_lt hlt]
  omega

/-! #### The shapes of operation complete with their effects -/

section
variable {i : Instr} {f : FileNo} {d : Dest} {s : State}

/-- A read-modify-store completes, with its result, C and DC in any form equal to what `op` answers. -/
theorem completes_of_readModifyStore {aff : FlagSet} (op : Byte → AluResult) {r : Byte} {c dc : Bool}
    (hx : exec i s = readModifyStore f d aff op s) (hr : op (fileValue f s) = ⟨r, c, dc⟩) :
    Completes i s (destEffect f d s r aff c dc) := by
  obtain ⟨t, ht, he⟩ := readModifyStore_effect f d aff op s
  rw [hr] at he
  exact ⟨t, hx.trans ht, he.holds⟩

/-- A read-modify-store that computes neither C nor DC. -/
theorem completes_of_plainStore {aff : FlagSet} (op : Byte → Byte) {r : Byte}
    (hx : exec i s = readModifyStore f d aff (fun v => plain (op v)) s) (hr : op (fileValue f s) = r) :
    Completes i s (destEffect f d s r aff false false) :=
  completes_of_readModifyStore (fun v => plain (op v)) hx (congrArg plain hr)

theorem completes_of_storeOnly {aff : FlagSet} {r : Byte} (hx : exec i s = storeOnly f aff (plain r) s) :
    Completes i s (storeEffect f s r aff) := by
  obtain ⟨t, ht, he⟩ := storeOnly_effect f aff r s
  exact ⟨t, hx.trans ht, he.holds⟩

theorem refused_of_storeAndSkip (op : Byte → Byte) (hx : exec i s = storeAndSkip f d op s)
    (hp : d = .f ∧ s.classOf (dataAddr f s) = .pcl) : exec i s = .refused (.skipWritesPcl s.pc) := by
  have h := storeAndSkip_effect f d op s
  rw [if_pos hp] at h
  exact hx.trans h

theorem completes_of_storeAndSkip (op : Byte → Byte) {r : Byte} (hx : exec i s = storeAndSkip f d op s)
    (hp : ¬(d = .f ∧ s.classOf (dataAddr f s) = .pcl)) (hr : op (fileValue f s) = r) :
    Completes i s
      { destEffect f d s r FlagSet.none false false with
        next := if r = 0x00#8 then s.pc + 2 else s.pc + 1
        cycles := if r = 0x00#8 then 2 else 1 } := by
  have h := storeAndSkip_effect f d op s
  rw [if_neg hp, hr] at h
  obtain ⟨t, ht, he⟩ := h
  exact ⟨t, hx.trans ht, he.holds⟩

/-- NOP is one cycle retired and pc advanced (R114). -/
theorem completes_nop (s : State) : Completes .nop s { next := s.pc + 1 } := by
  refine ⟨_, rfl, ?_⟩
  constructor <;> simp [Effect.writes, FlagSet.none]

end

/-! #### Arithmetic, logic and moves -/

/-- Settles O25: the read-modify-store of `add8`. -/
theorem addwfAddsWAndFile : Obligations.AddwfAddsWAndFile := by
  refine ⟨byteRow_of_encode fun _ _ => ⟨rfl, rfl⟩, fun f d s => ?_⟩
  exact completes_of_readModifyStore (fun v => add8 s.w v) rfl (add8_eq_ofNat s.w _)

/-- Settles O26: the read-modify-store of `sub8`, W taken from the file. -/
theorem subwfSubtractsWFromFile : Obligations.SubwfSubtractsWFromFile := by
  refine ⟨byteRow_of_encode fun _ _ => ⟨rfl, rfl⟩, fun f d s => ?_⟩
  exact completes_of_readModifyStore (fun v => sub8 v s.w) rfl (sub8_eq_ofNat _ s.w)

/-- Settles O27: three read-modify-stores that affect Z only. -/
theorem logicOfWAndFile : Obligations.LogicOfWAndFile := by
  refine ⟨byteRow_of_encode fun _ _ => ⟨rfl, rfl⟩, byteRow_of_encode fun _ _ => ⟨rfl, rfl⟩,
    byteRow_of_encode fun _ _ => ⟨rfl, rfl⟩, fun f d s => ⟨?_, ?_, ?_⟩⟩
  · exact completes_of_plainStore (fun v => s.w &&& v) rfl rfl
  · exact completes_of_plainStore (fun v => s.w ||| v) rfl rfl
  · exact completes_of_plainStore (fun v => s.w ^^^ v) rfl rfl

/-- Settles O28: the complement as a natural number; MOVF stores what it reads. -/
theorem complementAndMoveOfFile : Obligations.ComplementAndMoveOfFile := by
  refine ⟨byteRow_of_encode fun _ _ => ⟨rfl, rfl⟩, byteRow_of_encode fun _ _ => ⟨rfl, rfl⟩,
    fun f d s => ⟨?_, ?_⟩⟩
  · exact completes_of_plainStore (fun v => ~~~v) rfl (complement_eq_ofNat _)
  · exact completes_of_plainStore (fun v => v) rfl rfl

/-- Settles O29: `f - 1` is `f + 255` modulo 256. -/
theorem incrementAndDecrementOfFile : Obligations.IncrementAndDecrementOfFile := by
  refine ⟨byteRow_of_encode fun _ _ => ⟨rfl, rfl⟩, byteRow_of_encode fun _ _ => ⟨rfl, rfl⟩,
    fun f d s => ⟨?_, ?_⟩⟩
  · exact completes_of_plainStore (fun v => v - 1) rfl (pred_eq_ofNat _)
  · exact completes_of_plainStore (fun v => v + 1) rfl (succ_eq_ofNat _)

/-- Settles O30: the refusal at PCL, and elsewhere the skip on the result as a natural number. -/
theorem skippingIncrementAndDecrement : Obligations.SkippingIncrementAndDecrement := by
  refine ⟨byteRow_of_encode fun _ _ => ⟨rfl, rfl⟩, byteRow_of_encode fun _ _ => ⟨rfl, rfl⟩,
    fun f d s => ?_⟩
  dsimp only
  split
  · rename_i hp
    exact ⟨refused_of_storeAndSkip (fun v => v - 1) rfl hp, refused_of_storeAndSkip (fun v => v + 1) rfl hp⟩
  · rename_i hp
    exact ⟨completes_of_storeAndSkip (fun v => v - 1) rfl hp (pred_eq_ofNat _),
      completes_of_storeAndSkip (fun v => v + 1) rfl hp (succ_eq_ofNat _)⟩

/-- Settles O32: the nibbles exchanged as a natural number, with no flag affected. -/
theorem swapfExchangesNibbles : Obligations.SwapfExchangesNibbles := by
  refine ⟨byteRow_of_encode fun _ _ => ⟨rfl, rfl⟩, fun f d s => ?_⟩
  exact completes_of_plainStore swapNibbles rfl (swapNibbles_eq_ofNat _)

/-- Settles O33: both store a byte that does not come from the register. -/
theorem clearAndStoreToFile : Obligations.ClearAndStoreToFile :=
  ⟨fileRow_of_encode fun _ => ⟨rfl, rfl⟩, fileRow_of_encode fun _ => ⟨rfl, rfl⟩,
    fun _ _ => ⟨completes_of_storeOnly rfl, completes_of_storeOnly rfl⟩⟩

/-- Settles O34: the words of both rows, and the write of 0x00 to W. -/
theorem clearWAndNoOperation : Obligations.ClearWAndNoOperation := by
  refine ⟨decode_clrw_word, decode_nop_word, fun s => ⟨?_, completes_nop s⟩⟩
  obtain ⟨t, ht, he⟩ := storeW_effect .onlyZ (plain 0x00#8) s
  exact ⟨t, ht, he.holds⟩

/-! #### Rotates -/

/-- The nine bits C:f that RLF rotates, as C and the byte of a RAM cell (R115). -/
def carryAndCell (c : Nat) (s : State) : Bool × Byte := (s.flagC, ramRead s.ram c)

/-- One place of RLF's rotate on the nine bits. -/
def rotateNine (x : Bool × Byte) : Bool × Byte := ((rotateLeft x.2 x.1).c, (rotateLeft x.2 x.1).val)

/-- Nine places of a nine-bit rotate are none. -/
theorem rotateNine_nine_times (x : Bool × Byte) : rotateNine^[9] x = x := by
  have h : ∀ (c : Bool) (v : Byte), rotateNine^[9] (c, v) = (c, v) := by decide
  exact h x.1 x.2

theorem fileValue_of_ram {f : FileNo} {c : Nat} {s : State} (h : s.classOf (dataAddr f s) = .ram c) :
    fileValue f s = ramRead s.ram c := by rw [fileValue, dataRead_of_ram (ramCell_of_classOf h)]

/-- An operand's address is made of the bank bits of STATUS and FSR (R42, R43). -/
theorem dataAddr_congr {s t : State} (f : FileNo) (hbits : t.status.extractLsb' 5 3 = s.status.extractLsb' 5 3)
    (hfsr : t.fsr = s.fsr) : dataAddr f t = dataAddr f s := by
  have hbank : ∀ v : Byte, v.extractLsb' 5 2 = (v.extractLsb' 5 3).extractLsb' 0 2 := by decide
  have hirp : ∀ v : Byte, v.extractLsb' 7 1 = (v.extractLsb' 5 3).extractLsb' 2 1 := by decide
  simp only [dataAddr, State.bank, State.irp, bitRP0, bitIRP, hbank, hirp, hbits, hfsr]

/-- RLF on a general purpose register rotates its nine bits, and `f` goes on designating that register. -/
theorem exec_rlf_of_ram {f : FileNo} {c : Nat} {s : State} (h : s.classOf (dataAddr f s) = .ram c) :
    ∃ t, exec (.rlf f .f) s = .next t ∧ t.classOf (dataAddr f t) = .ram c ∧
      carryAndCell c t = rotateNine (carryAndCell c s) ∧ t.pc = s.pc + 1 := by
  obtain ⟨t, ht, he⟩ := readModifyStore_effect f .f .onlyC (fun v => rotateLeft v s.flagC) s
  rw [fileValue_of_ram h] at he
  have hbits : t.status.extractLsb' 5 3 = s.status.extractLsb' 5 3 := by
    simpa [destEffect, Effect.writes, h] using he.holds.bankBits
  have hfsr : t.fsr = s.fsr := by simpa [destEffect, Effect.writes, h] using he.holds.fsr
  have hpc : t.pc = s.pc + 1 := by simpa [destEffect, Effect.writes, h] using he.holds.pc
  have hram : ramRead t.ram c = (rotateLeft (ramRead s.ram c) s.flagC).val := by
    simpa [destEffect, Effect.writes, Effect.byte, h] using he.holds.ram c
  refine ⟨t, ht, ?_, Prod.ext he.holds.flagC hram, hpc⟩
  rw [dataAddr_congr f hbits hfsr, State.classOf, he.holds.cfg]
  exact h

/-- `n` RLF on a general purpose register rotate its nine bits by `n` places. -/
theorem rlfTimes_of_ram {f : FileNo} {c : Nat} (n : Nat) {s : State} (h : s.classOf (dataAddr f s) = .ram c) :
    ∃ t, rlfTimes f n s = .next t ∧ carryAndCell c t = rotateNine^[n] (carryAndCell c s) ∧
      t.pc = s.pc + BitVec.ofNat 13 n := by
  induction n generalizing s with
  | zero => exact ⟨s, rfl, rfl, by simp⟩
  | succ n ih =>
    obtain ⟨u, hu, hclass, hrot, hpc⟩ := exec_rlf_of_ram h
    obtain ⟨t, ht, hrots, hpcs⟩ := ih hclass
    refine ⟨t, by simp [rlfTimes, hu, ht], by rw [hrots, hrot, Function.iterate_succ_apply], ?_⟩
    rw [hpcs, hpc, BitVec.add_assoc, BitVec.add_comm 1, BitVec.ofNat_add]
    rfl

/-- Settles O31: the rotates as natural numbers, and nine of them on one register. -/
theorem rotatesThroughCarry : Obligations.RotatesThroughCarry := by
  refine ⟨byteRow_of_encode fun _ _ => ⟨rfl, rfl⟩, byteRow_of_encode fun _ _ => ⟨rfl, rfl⟩,
    fun f d s => ⟨?_, ?_⟩, fun f c s h => ?_⟩
  · exact completes_of_readModifyStore (fun v => rotateLeft v s.flagC) rfl (rotateLeft_eq_ofNat _ _)
  · exact completes_of_readModifyStore (fun v => rotateRight v s.flagC) rfl (rotateRight_eq_ofNat _ _)
  · obtain ⟨t, ht, hrot, hpc⟩ := rlfTimes_of_ram 9 h
    rw [rotateNine_nine_times] at hrot
    obtain ⟨hflag, hram⟩ := Prod.mk.inj hrot
    exact ⟨t, ht, hram, hflag, hpc⟩

/-! #### Program memory is not read -/

/-- The state with another program. -/
def State.withProg (p : List (Nat × InstrWord)) (s : State) : State := { s with prog := p }

/-- The outcome with another program in its next state. -/
def withProgOutcome (p : List (Nat × InstrWord)) : Outcome → Outcome
  | .next t => .next (t.withProg p)
  | .fault r => .fault r
  | .refused r => .refused r

section
variable (p : List (Nat × InstrWord)) (s : State)

@[simp] theorem State.withProg_w : (s.withProg p).w = s.w := rfl
@[simp] theorem State.withProg_pc : (s.withProg p).pc = s.pc := rfl
@[simp] theorem State.withProg_flagC : (s.withProg p).flagC = s.flagC := rfl
@[simp] theorem State.withProg_jumpTarget (k : BitVec 11) : (s.withProg p).jumpTarget k = s.jumpTarget k := rfl
@[simp] theorem State.withProg_classOf (a : DataAddr) : (s.withProg p).classOf a = s.classOf a := rfl
@[simp] theorem writesPcl_withProg (a : DataAddr) (d : Dest) : writesPcl a d (s.withProg p) = writesPcl a d s := rfl
@[simp] theorem destCycles_withProg (a : DataAddr) (d : Dest) : destCycles a d (s.withProg p) = destCycles a d s := rfl
@[simp] theorem dataAddr_withProg (f : FileNo) : dataAddr f (s.withProg p) = dataAddr f s := rfl

@[simp] theorem State.setW_withProg (v : Byte) : (s.withProg p).setW v = (s.setW v).withProg p := rfl
@[simp] theorem State.advance_withProg : (s.withProg p).advance = s.advance.withProg p := rfl
@[simp] theorem State.skipIf_withProg (b : Bool) : (s.withProg p).skipIf b = (s.skipIf b).withProg p := rfl
@[simp] theorem State.retire_withProg (n : Nat) : (s.withProg p).retire n = (s.retire n).withProg p := rfl
@[simp] theorem affectFlags_withProg (aff : FlagSet) (r : AluResult) :
    affectFlags aff r (s.withProg p) = (affectFlags aff r s).withProg p := rfl

@[simp] theorem dataRead_withProg (a : DataAddr) :
    dataRead a (s.withProg p) = ((dataRead a s).1, (dataRead a s).2.withProg p) := by
  simp only [dataRead, State.withProg_classOf]
  cases s.classOf a <;> rfl

@[simp] theorem dataWrite_withProg (a : DataAddr) (v : Byte) (aff : FlagSet) :
    dataWrite a v aff (s.withProg p) = (dataWrite a v aff s).withProg p := by
  simp only [dataWrite, State.withProg_classOf]
  cases s.classOf a <;> rfl

@[simp] theorem storeDest_withProg (a : DataAddr) (d : Dest) (v : Byte) (aff : FlagSet) :
    storeDest a d v aff (s.withProg p) = (storeDest a d v aff s).withProg p := by
  cases d with
  | w => rfl
  | f => exact dataWrite_withProg p s a v aff

@[simp] theorem push_withProg (v : CodeAddr) : push v (s.withProg p) = (push v s).map (State.withProg p) := by
  by_cases hlt : s.stack.length < stackDepth
  · simp [push, State.withProg, hlt]
  · cases hw : s.cfg.stackWrap <;> simp [push, State.withProg, hlt, hw]

@[simp] theorem pop_withProg : pop (s.withProg p) = (pop s).map (Prod.map id (State.withProg p)) := by
  cases hs : s.stack with
  | cons a rest => simp [pop, State.withProg, hs]
  | nil =>
    cases hw : s.cfg.stackWrap with
    | fault => simp [pop, State.withProg, hs, hw]
    | circular => cases hst : s.stale <;> simp [pop, State.withProg, hs, hw, hst]

@[simp] theorem readModifyStore_withProg (f : FileNo) (d : Dest) (aff : FlagSet) (op : Byte → AluResult) :
    readModifyStore f d aff op (s.withProg p) = withProgOutcome p (readModifyStore f d aff op s) := by
  simp [readModifyStore, withProgOutcome]

@[simp] theorem storeOnly_withProg (f : FileNo) (aff : FlagSet) (r : AluResult) :
    storeOnly f aff r (s.withProg p) = withProgOutcome p (storeOnly f aff r s) := by
  simp [storeOnly, withProgOutcome]

@[simp] theorem storeAndSkip_withProg (f : FileNo) (d : Dest) (op : Byte → Byte) :
    storeAndSkip f d op (s.withProg p) = withProgOutcome p (storeAndSkip f d op s) := by
  cases hp : writesPcl (dataAddr f s) d s <;> simp [storeAndSkip, hp, withProgOutcome]

@[simp] theorem testBitAndSkip_withProg (f : FileNo) (b : Nat) (value : Bool) :
    testBitAndSkip f b value (s.withProg p) = withProgOutcome p (testBitAndSkip f b value s) := by
  simp [testBitAndSkip, withProgOutcome]

@[simp] theorem execCall_withProg (k : BitVec 11) :
    execCall k (s.withProg p) = withProgOutcome p (execCall k s) := by
  simp only [execCall, State.withProg_pc, State.withProg_jumpTarget, State.retire_withProg, push_withProg]
  cases push (s.pc + 1) (s.retire 2) <;> rfl

@[simp] theorem popAndGo_withProg : popAndGo (s.withProg p) = withProgOutcome p (popAndGo s) := by
  simp only [popAndGo, State.withProg_pc, State.retire_withProg, pop_withProg]
  cases pop (s.retire 2) <;> rfl

@[simp] theorem returnFromInterrupt_withProg :
    returnFromInterrupt (s.withProg p) = withProgOutcome p (returnFromInterrupt s) := by
  simp only [returnFromInterrupt, State.withProg_pc, pop_withProg]
  cases pop s <;> rfl

/-- Running an instruction commutes with a change of the program. -/
theorem exec_withProg (i : Instr) : exec i (s.withProg p) = withProgOutcome p (exec i s) := by
  cases i with
  | addwf | andwf | comf | decf | incf | iorwf | movf | rlf | rrf | subwf | swapf | xorwf | bcf | bsf =>
    simp [exec, execAddwf, execAndwf, execComf, execDecf, execIncf, execIorwf, execMovf, execRlf, execRrf, execSubwf,
      execSwapf, execXorwf, execBcf, execBsf]
  | clrf | movwf => simp [exec, execClrf, execMovwf]
  | decfsz | incfsz => simp [exec, execDecfsz, execIncfsz]
  | btfsc | btfss => simp [exec, execBtfsc, execBtfss]
  | call | retn | retlw | retfie => simp [exec, execRetn, execRetlw, execRetfie]
  | clrw | nop | addlw | andlw | iorlw | movlw | sublw | xorlw | goto | clrwdt | sleep => rfl

end

/-- Settles O52: every shape of operation commutes with a change of the program. -/
theorem instructionsDoNotReadProgramMemory : Obligations.InstructionsDoNotReadProgramMemory := by
  intro i s p
  refine (exec_withProg p s i).trans ?_
  cases exec i s <;> rfl

end Sys2Proof.Machine

/-! ### Bit-oriented operations -/

namespace Sys2Proof.Machine

/-- A bit number of three bits is always that of a well-formed operand (R72). -/
theorem bitRow_of_encode {op : BitVec 4} {i : FileNo → Nat → Instr}
    (h : ∀ f b, (i f b).wellFormed = bitNoOk b ∧ encode (i f b) = op ++ bitField b ++ f) : BitRow op i := by
  intro b f
  obtain ⟨hwf, henc⟩ := h f b.toNat
  have hb : bitNoOk b.toNat = true := decide_eq_true (Nat.le_of_lt_succ b.isLt)
  have hfield : bitField b.toNat = b := by rw [bitField, BitVec.ofNat_toNat, BitVec.setWidth_eq]
  rw [← decode_encode (hwf.trans hb), henc, hfield]

theorem clearBit_eq_ofNat (v : Byte) (b : Nat) : clearBit v b = v &&& ~~~BitVec.ofNat 8 (2 ^ b) := by
  rw [clearBit, one_shiftLeft_eq_ofNat]

theorem setBit_eq_ofNat (v : Byte) (b : Nat) : setBit v b = v ||| BitVec.ofNat 8 (2 ^ b) := by
  rw [setBit, one_shiftLeft_eq_ofNat]

theorem byte_bit_eq (v : Byte) (b : Nat) : v.getLsbD b = decide (v.toNat / 2 ^ b % 2 = 1) :=
  Nat.testBit_eq_decide_div_mod_eq

/-- A bit test completes, with the condition of its skip in any form equal to the comparison of the bit. -/
theorem completes_of_testBitAndSkip {i : Instr} {f : FileNo} {b : Nat} {value skip : Bool} {s : State}
    (hx : exec i s = testBitAndSkip f b value s) (hskip : (fileValue f s).getLsbD b = value ↔ skip = true) :
    Completes i s
      { addr := dataAddr f s, reads := true, next := if skip then s.pc + 2 else s.pc + 1,
        cycles := if skip then 2 else 1 } := by
  obtain ⟨t, ht, he⟩ := testBitAndSkip_effect f b value s
  simp only [hskip] at he
  exact ⟨t, hx.trans ht, he.holds⟩

/-- Settles O35: two read-modify-stores to the file register that affect no flag. -/
theorem bitClearAndBitSet : Obligations.BitClearAndBitSet := by
  refine ⟨bitRow_of_encode fun _ _ => ⟨rfl, rfl⟩, bitRow_of_encode fun _ _ => ⟨rfl, rfl⟩,
    fun f b s _ => ⟨?_, ?_⟩⟩
  · exact completes_of_plainStore (fun v => clearBit v b) rfl (clearBit_eq_ofNat _ b)
  · exact completes_of_plainStore (fun v => setBit v b) rfl (setBit_eq_ofNat _ b)

/-- Settles O36: the skip on the bit, as a digit of the value read. -/
theorem bitTestsSkip : Obligations.BitTestsSkip := by
  refine ⟨bitRow_of_encode fun _ _ => ⟨rfl, rfl⟩, bitRow_of_encode fun _ _ => ⟨rfl, rfl⟩,
    fun f b s _ => ⟨?_, ?_⟩⟩
  · exact completes_of_testBitAndSkip (value := false) rfl (by simp [byte_bit_eq])
  · exact completes_of_testBitAndSkip (value := true) rfl (by simp [byte_bit_eq])

end Sys2Proof.Machine

/-! ### Literal and control operations -/

namespace Sys2Proof.Machine

/-! #### The words of the rows (R75) -/

/-- A literal row of the opcode map: `op`'s bits under the row's mask are the row's match, and `k` is the operand. -/
theorem literalRow_of_mask {op : BitVec 6} {i : Byte → Instr} (mask : BitVec 6)
    (h : ∀ k, rowMask (i k) = mask ++ 0#8 ∧ rowMatch (i k) = (op &&& mask) ++ 0#8 ∧
      operandsFrom (op ++ k) (i k) = i (fieldK8 (op ++ k))) : LiteralRow op i := by
  intro k
  obtain ⟨hmask, hmatch, hop⟩ := h k
  have hrow : (op ++ k) &&& rowMask (i k) = rowMatch (i k) := by rw [hmask, hmatch, Laws.EncodedRow.masked]
  rw [decode_of_row hrow, hop, fieldK8_append]

/-- A literal row whose bits 9:8, here `x`, are don't-care bits (R74). -/
theorem literalRow_of_high_bits {op : BitVec 4} {i : Byte → Instr}
    (h : ∀ k w, rowMask (i k) = 0x3C00#14 ∧ rowMatch (i k) = op ++ 0#10 ∧ operandsFrom w (i k) = i (fieldK8 w))
    (x : BitVec 2) : LiteralRow (op ++ x) i := by
  refine literalRow_of_mask 0b111100#6 fun k => ?_
  obtain ⟨hmask, hmatch, hop⟩ := h k (op ++ x ++ k)
  have hbits : ∀ (op : BitVec 4) (x : BitVec 2), ((op ++ x) &&& 0b111100#6) ++ 0#8 = op ++ 0#10 := by decide
  exact ⟨hmask, hmatch.trans (hbits op x).symm, hop⟩

theorem jumpRow_of_encode {op : BitVec 3} {i : BitVec 11 → Instr}
    (h : ∀ k, (i k).wellFormed = true ∧ encode (i k) = op ++ k) : JumpRow op i := by
  intro k
  obtain ⟨hwf, henc⟩ := h k
  rw [← henc, decode_encode hwf]

/-! #### Literal operations -/

/-- A write to W completes, with its result, C and DC in any form equal to those of `r`. -/
theorem completes_of_storeW {i : Instr} {s : State} {aff : FlagSet} (r : AluResult) {v : Byte} {c dc : Bool}
    (hx : exec i s = storeW aff r s) (hr : r = ⟨v, c, dc⟩) : Completes i s (wEffect s v aff c dc) := by
  obtain ⟨t, ht, he⟩ := storeW_effect aff r s
  rw [hr] at he
  exact ⟨t, hx.trans ht, he.holds⟩

/-- Settles O37: `add8` and `sub8` in natural numbers, written to W; one bit of each row is a don't-care bit. -/
theorem literalAdditionAndSubtraction : Obligations.LiteralAdditionAndSubtraction := by
  refine ⟨?_, ?_, ?_, ?_, fun k s => ⟨?_, ?_⟩⟩
  iterate 4 exact literalRow_of_mask 0b111110#6 fun _ => ⟨rfl, rfl, rfl⟩
  · exact completes_of_storeW (add8 s.w k) rfl (add8_eq_ofNat s.w k)
  · exact completes_of_storeW (sub8 k s.w) rfl (sub8_eq_ofNat k s.w)

/-- Settles O38: four writes of a byte to W, with neither C nor DC. -/
theorem literalLogicAndMove : Obligations.LiteralLogicAndMove := by
  refine ⟨?_, ?_, ?_, literalRow_of_high_bits fun _ _ => ⟨rfl, rfl, rfl⟩, fun k s => ⟨?_, ?_, ?_, ?_⟩⟩
  iterate 3 exact literalRow_of_mask 0b111111#6 fun _ => ⟨rfl, rfl, rfl⟩
  · exact completes_of_storeW (plain (s.w &&& k)) rfl rfl
  · exact completes_of_storeW (plain (s.w ||| k)) rfl rfl
  · exact completes_of_storeW (plain (s.w ^^^ k)) rfl rfl
  · exact completes_of_storeW (plain k) rfl rfl

/-! #### Jumps and returns -/

theorem exec_call_of_no_push {k : BitVec 11} {s : State} (h : push (s.pc + 1) (s.retire 2) = none) :
    exec (.call k) s = .fault (.stackOverflow s.pc) := by simp only [exec, execCall, h]

theorem popAndGo_of_no_pop {s : State} (h : pop (s.retire 2) = none) :
    popAndGo s = .fault (.stackUnderflow s.pc) := by simp only [popAndGo, h]

theorem returnFromInterrupt_of_no_pop {s : State} (h : pop s = none) :
    returnFromInterrupt s = .fault (.stackUnderflow s.pc) := by simp only [returnFromInterrupt, h]

/-- Settles O39: the push below eight entries and the one of a full faulting stack. -/
theorem callPushesAndJumps : Obligations.CallPushesAndJumps := by
  refine ⟨jumpRow_of_encode fun _ => ⟨rfl, rfl⟩, fun k s h => ?_, fun k s h hw => ?_⟩
  · refine ⟨_, exec_call_of_push (push_of_lt (s := s.retire 2) h), jumpTarget_toNat s k, rfl, rfl, rfl, rfl, rfl, rfl,
      rfl, rfl, ?_⟩
    constructor <;> rfl
  · exact exec_call_of_no_push (push_of_full_fault (s := s.retire 2) h hw)

/-- Settles O40: only pc and the cycles change. -/
theorem gotoJumpsWithinThePclathPage : Obligations.GotoJumpsWithinThePclathPage := by
  refine ⟨jumpRow_of_encode fun _ => ⟨rfl, rfl⟩, fun k s => ?_⟩
  refine ⟨_, rfl, jumpTarget_toNat s k, rfl, rfl, rfl, rfl, rfl, rfl, rfl, rfl, rfl, ?_⟩
  constructor <;> rfl

/-- Settles O41: the pop of a stack with an entry and the one of an empty faulting stack. -/
theorem returnsPopTheStack : Obligations.ReturnsPopTheStack := by
  refine ⟨decode_encode (i := .retn) rfl, literalRow_of_high_bits fun _ _ => ⟨rfl, rfl, rfl⟩,
    fun k a rest s h => ⟨?_, ?_⟩, fun k s h hw => ⟨?_, ?_⟩⟩
  · refine ⟨_, exec_retn_of_pop (pop_of_cons (s := s.retire 2) h), rfl, rfl, rfl, rfl, rfl, rfl, rfl, rfl, rfl, ?_⟩
    constructor <;> rfl
  · refine ⟨_, exec_retlw_of_pop (pop_of_cons (s := (s.setW k).retire 2) h), rfl, rfl, rfl, rfl, rfl, rfl, rfl, rfl,
      rfl, ?_⟩
    constructor <;> rfl
  · exact popAndGo_of_no_pop (pop_of_empty_fault (s := s.retire 2) h hw)
  · exact popAndGo_of_no_pop (s := s.setW k) (pop_of_empty_fault (s := (s.setW k).retire 2) h hw)

/-- Settles O42: the pop, and bit 7 of INTCON set. -/
theorem retfieReturnsAndEnablesInterrupts : Obligations.RetfieReturnsAndEnablesInterrupts := by
  refine ⟨decode_encode (i := .retfie) rfl, fun a rest s h => ?_, fun s h hw => ?_⟩
  · refine ⟨_, exec_retfie_of_pop (pop_of_cons (s := s.retire 2) h), rfl, rfl, rfl, rfl, rfl, rfl, rfl, rfl, rfl, ?_⟩
    constructor <;> rfl
  · exact returnFromInterrupt_of_no_pop (pop_of_empty_fault (s := s.retire 2) h hw)

/-! #### CLRWDT and SLEEP -/

/-- TO and PD both set (R143). -/
theorem setTimeoutBits_true_true_status (s : State) : (s.setTimeoutBits true true).status = s.status ||| 0x18#8 := by
  have h : ∀ v : Byte, v &&& 0xE7#8 ||| 0x10#8 ||| 0x08#8 = v ||| 0x18#8 := by decide
  exact (setTimeoutBits_status true true s).trans (h s.status)

/-- TO set and PD cleared (R150). -/
theorem setTimeoutBits_true_false_status (s : State) :
    (s.setTimeoutBits true false).status = (s.status &&& 0xE7#8) ||| 0x10#8 :=
  (setTimeoutBits_status true false s).trans BitVec.or_zero

/-- Settles O43: the watchdog cleared, then TO and PD set. -/
theorem clrwdtClearsTheWatchdog : Obligations.ClrwdtClearsTheWatchdog := by
  refine ⟨decode_encode (i := .clrwdt) rfl, fun s => ?_⟩
  refine ⟨_, rfl, rfl, rfl, setTimeoutBits_true_true_status _, rfl, rfl, rfl, rfl, rfl, rfl, rfl, ?_⟩
  constructor <;> rfl

/-- Settles O44: the watchdog cleared, TO set and PD cleared, and the mode. -/
theorem sleepEntersTheSleepingMode : Obligations.SleepEntersTheSleepingMode := by
  refine ⟨decode_encode (i := .sleep) rfl, fun s => ?_⟩
  refine ⟨_, rfl, rfl, rfl, setTimeoutBits_true_false_status (s.retire 1).advance.clearWatchdog, rfl, rfl, rfl, rfl,
    rfl, rfl, rfl, ?_⟩
  constructor <;> rfl

/-! #### The ways pc changes (R153) -/

theorem canSkip_cases {i : Instr} (h : canSkip i = true) :
    ∃ f d b, i = .decfsz f d ∨ i = .incfsz f d ∨ i = .btfsc f b ∨ i = .btfss f b := by
  cases i with
  | decfsz f d | incfsz f d => exact ⟨f, d, 0, by simp⟩
  | btfsc f b | btfss f b => exact ⟨f, .w, b, by simp⟩
  | _ => cases h

/-- A pop is that of every state with the same stack, stale entries and parameters. -/
theorem pop_of_same_stack {s s' t : State} {a : CodeAddr} (h : pop s' = some (a, t)) (hstack : s'.stack = s.stack)
    (hstale : s'.stale = s.stale) (hcfg : s'.cfg = s.cfg) :
    pop s = some (a, { s with stack := t.stack, stale := t.stale }) := by
  rcases pop_cases h with ⟨rest, hs, rfl⟩ | ⟨rest, hs, hw, hst, rfl⟩
  · rw [pop_of_cons (hstack ▸ hs), hstale]
  · rw [pop_of_empty_circular (hstack ▸ hs) (hcfg ▸ hw) (hstale ▸ hst), hstack]

/-- Where a control operation goes: a jump's target, the popped address, or the next instruction. -/
theorem ControlNext.pc_cases {s t : State} {i : Instr} (h : ControlNext s i t) :
    (∃ k, (i = .goto k ∨ i = .call k) ∧ t.pc.toNat = s.pclath.toNat / 8 * 2048 + k.toNat) ∨
      ((i = .retn ∨ i = .retfie ∨ ∃ k, i = .retlw k) ∧ ∃ u, pop s = some (t.pc, u) ∧ t.stack = u.stack) ∨
      t.pc = s.pc + 1 := by
  cases h with
  | call k => exact .inl ⟨k, .inr rfl, jumpTarget_toNat s k⟩
  | goto k => exact .inl ⟨k, .inl rfl, jumpTarget_toNat s k⟩
  | retn a u hp => exact .inr (.inl ⟨.inl rfl, _, pop_of_same_stack hp rfl rfl rfl, rfl⟩)
  | retfie a u hp => exact .inr (.inl ⟨.inr (.inl rfl), _, pop_of_same_stack hp rfl rfl rfl, rfl⟩)
  | retlw k a u hp => exact .inr (.inl ⟨.inr (.inr ⟨k, rfl⟩), _, pop_of_same_stack hp rfl rfl rfl, rfl⟩)
  | clrwdt | sleep => exact .inr (.inr rfl)

/-- Where an instruction with an effect goes: the byte written to PCL, the instruction after the next, or the next. -/
theorem Effect.Fits.pc_cases {e : Effect} {i : Instr} {s t : State} (hf : e.Fits i s) (he : e.Holds s t) :
    (WritesFile i s .pcl ∧ ∃ v, fileResult i s = some v ∧ t.pc.toNat = pclTarget s v) ∨
      (canSkip i = true ∧ t.pc = s.pc + 2) ∨ t.pc = s.pc + 1 := by
  have hpc := he.pc
  split at hpc
  · rename_i hw
    obtain ⟨hsome, -⟩ := Bool.and_eq_true_iff.mp hw
    obtain ⟨v, hv⟩ := Option.isSome_iff_exists.mp hsome
    refine .inl ⟨hf.writesFile hw, v, hf.byte v hv, ?_⟩
    rw [hpc, Effect.byte, hv, Option.getD_some, pcl_target_toNat]
  · rw [hpc]
    exact .inr (hf.next.elim .inr .inl)

/-- Settles O50: what a control operation or an effect does to pc, the next instruction ruled out. -/
theorem waysThePcChanges : Obligations.WaysThePcChanges := by
  intro i s t h hne
  rcases exec_cases h with hc | ⟨e, he, hf⟩
  · rcases hc.pc_cases with hjump | hret | hnext
    · exact .inl hjump
    · exact .inr (.inl hret)
    · exact absurd hnext hne
  · rcases hf.pc_cases he.holds with hpcl | ⟨hskip, hpc⟩ | hnext
    · exact .inr (.inr (.inr hpcl))
    · exact .inr (.inr (.inl ⟨canSkip_cases hskip, hpc⟩))
    · exact absurd hnext hne

end Sys2Proof.Machine

/-! ### Interrupts, wake-up and the watchdog -/

namespace Sys2Proof.Machine

/-! #### Interrupt entry and the return from it -/

theorem takeInterrupt_of_push {s t : State} (h : push s.pc (s.setGie false) = some t) :
    takeInterrupt s = .next (t.setPc irqVector) := by simp only [takeInterrupt, h]

theorem takeInterrupt_of_no_push {s : State} (h : push s.pc (s.setGie false) = none) :
    takeInterrupt s = .fault (.stackOverflow s.pc) := by simp only [takeInterrupt, h]

theorem interruptTakeable_iff {periph : Bool} {s : State} : interruptTakeable periph s = true ↔
    s.mode = .running ∧ s.gie = true ∧ irq periph s = true ∧ s.holdoff = false := by
  simp [interruptTakeable, and_assoc]

/-- An admitted interrupt is taken at the state with its turn used up. -/
theorem step_interrupt_taken {s : State} {periph : Bool} {rest : List Turn}
    (ht : s.turns = .env (.interrupt periph) :: rest) (h : interruptTakeable periph s = true) :
    step s = takeInterrupt { s with turns := rest } := by
  rw [step_env_turn ht]
  exact if_pos h

/-- An interrupt that is not admitted uses up its turn in vain (log 10). -/
theorem step_interrupt_in_vain {s : State} {periph : Bool} {rest : List Turn}
    (ht : s.turns = .env (.interrupt periph) :: rest) (h : interruptTakeable periph s ≠ true) :
    step s = .next { s with turns := rest } := by
  rw [step_env_turn ht]
  exact if_neg h

/-- Settles O53: the condition is `interruptTakeable`, and the entry is one case of `push` each. -/
theorem interruptEntry : Obligations.InterruptEntry := by
  intro s periph rest ht bit request owed
  have hiff : interruptTakeable periph s = true ↔
      s.mode = .running ∧ bit 7 = true ∧ request = true ∧ owed = false := interruptTakeable_iff
  split
  · rename_i h
    rw [step_interrupt_taken ht (hiff.mpr h)]
    refine ⟨fun hlt => ?_, fun hle hw => ?_, fun hfull hw => ?_⟩
    · exact takeInterrupt_of_push (push_of_lt (s := { s with turns := rest }.setGie false) hlt)
    · exact takeInterrupt_of_no_push (push_of_full_fault (s := { s with turns := rest }.setGie false) hle hw)
    · exact takeInterrupt_of_push (push_of_full_circular (s := { s with turns := rest }.setGie false) hfull hw)
  · rename_i h
    exact step_interrupt_in_vain ht (mt hiff.mp h)

/-- An interrupt entry leaves GIE clear (R166). -/
theorem setGie_false_gie (s : State) : (s.setGie false).gie = false := by
  simp [State.gie, clearBit, bitGIE]

/-- Setting GIE again undoes its clearing (R147). -/
theorem setGie_true_setGie_false {s : State} (h : s.gie = true) : (s.setGie false).setGie true = s := by
  have hbit : ∀ v : Byte, v.getLsbD bitGIE = true → setBit (clearBit v bitGIE) bitGIE = v := by decide
  simp only [State.setGie, hbit s.intcon h, Bool.false_eq_true, if_true, if_false]

/-- Settles O54: a pop undoes a push, and for the interrupt the second write of GIE the first. -/
theorem returnsUndoCallsAndInterruptEntries : Obligations.ReturnsUndoCallsAndInterruptEntries := by
  refine ⟨fun k s h => ?_, fun s h hgie => ?_⟩
  · exact ⟨_, _, exec_call_of_push (push_of_lt (s := s.retire 2) h), exec_retn_of_pop (pop_of_cons rfl), rfl, rfl, rfl,
      rfl, rfl, rfl, rfl⟩
  · have hintcon := congrArg State.intcon (setGie_true_setGie_false hgie)
    exact ⟨_, _, takeInterrupt_of_push (push_of_lt (s := s.setGie false) h), setGie_false_gie s,
      exec_retfie_of_pop (pop_of_cons rfl), rfl, rfl, hintcon, rfl, rfl, rfl, rfl, rfl⟩

/-! #### The owed instruction and the armed watchdog -/

/-- A control operation pays the owed instruction, and of the seven CLRWDT and SLEEP alone disarm the watchdog. -/
theorem ControlNext.ownBits {s t : State} {i : Instr} (h : ControlNext s i t) :
    t.holdoff = false ∧ (t.wdtArmed = false ↔ i = .clrwdt ∨ i = .sleep) := by
  cases h with
  | call k u hp =>
    rw [push_frame hp]
    simp
  | retn | retlw | retfie =>
    rename_i hp
    rw [pop_frame hp]
    simp
  | goto | clrwdt | sleep => simp

/-- Every executed instruction pays the owed instruction (R174; log 11), and all but CLRWDT and SLEEP let the watchdog
time out again (R172; log 14). -/
theorem exec_ownBits {s t : State} {i : Instr} (h : exec i s = .next t) :
    t.holdoff = false ∧ (t.wdtArmed = false ↔ i = .clrwdt ∨ i = .sleep) := by
  rcases exec_cases h with hc | ⟨e, he, hf⟩
  · exact hc.ownBits
  · have hi : ¬(i = .clrwdt ∨ i = .sleep) := by
      rintro (rfl | rfl) <;> cases hf.notControl
    simp [he.holdoff, he.wdtArmed, hi]

/-! #### Wake-up by an interrupt request -/

/-- The state after a wake-up by an interrupt request, whole (R174, and R31: STATUS `uuu1 0uuu`). -/
theorem wakeByInterrupt_eq (s : State) : wakeByInterrupt s =
    { s with mode := .running, status := (s.status &&& 0xE7#8) ||| 0x10#8, holdoff := s.gie } := by
  rw [← setTimeoutBits_true_false_status]
  rfl

/-- Settles O56: the owed instruction makes the next interrupt not takeable. -/
theorem interruptRequestWakes : Obligations.InterruptRequestWakes := by
  refine ⟨fun i s t h => (exec_ownBits h).1, fun s periph rest ht => ?_⟩
  have hstep : step s =
      .next (if s.mode = .sleeping ∧ irq periph s = true then wakeByInterrupt { s with turns := rest }
        else { s with turns := rest }) := step_env_turn ht
  split
  · rename_i h
    rw [if_pos h, wakeByInterrupt_eq] at hstep
    refine ⟨hstep, fun hgie q more hrest => step_interrupt_in_vain hrest fun htake => ?_⟩
    obtain ⟨-, -, -, howed⟩ := interruptTakeable_iff.mp htake
    exact Bool.noConfusion (hgie.symm.trans howed)
  · rename_i h
    rwa [if_neg h] at hstep

/-! #### The watchdog's time-out -/

/-- STATUS after a watchdog reset, `0000 1uuu` (R31). -/
theorem resetWatchdog_status (s : State) : (resetWatchdog s).status = (s.status &&& 0x07#8) ||| 0x08#8 := by
  have h : ∀ v : Byte, packStatus 0b000#3 false true (v.getLsbD bitZ) (v.getLsbD bitDC) (v.getLsbD bitC) =
      (v &&& 0x07#8) ||| 0x08#8 := by decide
  exact h s.status

/-- The state after a wake-up by the watchdog, whole (R174, and R31: STATUS `uuu0 0uuu`). -/
theorem wakeByWatchdog_eq (s : State) : wakeByWatchdog s =
    { s with mode := .running, status := s.status &&& 0xE7#8, wdt := 0, prescaler := 0, wdtArmed := false } := by
  have h : (s.clearWatchdog.setTimeoutBits false false).status = s.status &&& 0xE7#8 := by
    simpa using setTimeoutBits_status false false s.clearWatchdog
  rw [← h]
  rfl

/-- A time-out that is not admitted does nothing (log 10). -/
theorem envMove_timeout_in_vain {s : State} (h : timeoutAdmitted s = false) : envMove .wdtTimeout s = .next s := by
  simp [envMove, h]

theorem envMove_timeout_running {s : State} (h : timeoutAdmitted s = true) (hm : s.mode = .running) :
    envMove .wdtTimeout s = .next (resetWatchdog s) := by simp [envMove, h, hm]

theorem envMove_timeout_sleeping {s : State} (h : timeoutAdmitted s = true) (hm : s.mode = .sleeping) :
    envMove .wdtTimeout s = .next (wakeByWatchdog s) := by simp [envMove, h, hm]

/-- Settles O57: the four clauses by whether the time-out is admitted and by the mode. -/
theorem watchdogTimeout : Obligations.WatchdogTimeout := by
  refine ⟨fun i s t h => (exec_ownBits h).2, fun s rest ht => ?_⟩
  rw [step_env_turn ht]
  refine ⟨fun hdis => ?_, fun hen hm harmed => ?_, fun hen hm harmed => ?_, fun hen hm => ?_⟩
  · exact envMove_timeout_in_vain (by simp [timeoutAdmitted, hdis])
  · refine ⟨_, envMove_timeout_running (by simp [timeoutAdmitted, hen, harmed]) hm, ?_⟩
    exact ⟨rfl, rfl, resetWatchdog_status _, rfl, rfl, rfl, rfl, rfl, rfl, rfl, rfl, rfl, rfl⟩
  · exact envMove_timeout_in_vain (by simp [timeoutAdmitted, hm, harmed])
  · have hwake := envMove_timeout_sleeping (s := { s with turns := rest }) (by simp [timeoutAdmitted, hen, hm]) hm
    rwa [wakeByWatchdog_eq] at hwake

end Sys2Proof.Machine

/-! ### The cycles of an instruction (R201) -/

namespace Sys2Proof.Machine

/-- CLRWDT and SLEEP take one cycle, the jumps and the returns two. -/
theorem ControlNext.cycles {s t : State} {i : Instr} (h : ControlNext s i t) :
    t.cycles = s.cycles + if i = .clrwdt ∨ i = .sleep then 1 else 2 := by
  cases h with
  | call k u hp =>
    rw [push_frame hp]
    simp
  | retn a u hp | retlw k a u hp | retfie a u hp =>
    rw [pop_frame hp]
    simp
  | goto | clrwdt | sleep => simp

/-- A skipping instruction never writes PCL, so its pc tells whether the skip was taken. -/
theorem Effect.Fits.cycles_of_canSkip {e : Effect} {i : Instr} {s t : State} (hf : e.Fits i s) (he : e.Holds s t)
    (hs : canSkip i = true) : t.cycles = s.cycles + if t.pc = s.pc + 2 then 2 else 1 := by
  have hpc : t.pc = e.next := by rw [he.pc, hf.skipsNotPcl hs, if_neg Bool.false_ne_true]
  rw [he.cycles, hf.cycles, if_pos hs, hpc]

/-- An instruction that does not skip takes a second cycle exactly when it writes PCL as a file register. -/
theorem Effect.Fits.cycles_of_not_canSkip {e : Effect} {i : Instr} {s t : State} (hf : e.Fits i s)
    (he : e.Holds s t) (hs : canSkip i = false) :
    t.cycles = s.cycles + if writeTarget i s = none then 1
      else if (writeTarget i s).map s.classOf = some FileClass.pcl then 2 else 1 := by
  have ht := hf.target
  rw [he.cycles, hf.cycles]
  cases htoF : e.toF with
  | none | some => simp [ht, hs, htoF, Effect.writes]

/-- Settles O51: a control operation by its name, a skipping instruction by its pc, any other by its write target. -/
theorem cyclesOfEveryInstruction : Obligations.CyclesOfEveryInstruction := by
  intro i s t h
  rcases exec_cases h with hc | ⟨e, ⟨he, -, -⟩, hf⟩
  · have hcycles := hc.cycles
    cases hc with
    | call | goto | retn | retlw | retfie | clrwdt | sleep => exact hcycles
  · cases i with
    | call | goto | retn | retlw | retfie => cases hf.notControl
    | decfsz | incfsz | btfsc | btfss => exact hf.cycles_of_canSkip he rfl
    | _ => exact hf.cycles_of_not_canSkip he rfl

end Sys2Proof.Machine
